-- ==== Sys2Proof/Word.lean ====
section
/-! DEFINITION. The word types of the machine (00_scope.md R13). -/

namespace Sys2Proof

/-- The data word: A, X, Y, SP, the status byte and every memory byte (R13). -/
abbrev Byte := BitVec 8

/-- A bus address and the program counter (R13, R70). -/
abbrev Addr := BitVec 16

end Sys2Proof
end

