-- ==== Sys2Proof/Machine/Bits.lean ====
section
/-! DEFINITION. Bit fields, byte order and sign extension (00_scope.md R14, 20_memory.md R88). -/

namespace Sys2Proof

/-- `lo8(w) = w[7:0]` (R14). -/
def lo8 (w : Addr) : Byte := w.extractLsb' 0 8

/-- `hi8(w) = w[15:8]` (R14): the page number of an address (R159). -/
def hi8 (w : Addr) : Byte := w.extractLsb' 8 8

/-- `hi:lo` for two bytes (R14). -/
def word (hi lo : Byte) : Addr := hi ++ lo

/-- `zext_16(v)` (R14): a zero-page address (R112). -/
def zext (v : Byte) : Addr := v.setWidth 16

/-- `sext_8(v)` as a 16-bit addend (R14, R156). -/
def sext (v : Byte) : Addr := v.signExtend 16

/-- Two addresses lie on different pages (R159). -/
def crosses (a b : Addr) : Bool := hi8 a != hi8 b

/-- Byte `k` of a number whose bit 0 is the least significant bit of byte 0. -/
def byteOf (w k : Nat) : Byte := BitVec.ofNat 8 (w >>> (8 * k))

end Sys2Proof
end

