-- ==== Sys2Proof/Config.lean ====
section
/-! DEFINITION. What a machine is built with: the parameters of 00_scope.md R6 to R10, and the free
behaviour of the devices outside the core (R11, 20_memory.md R81). -/

namespace Sys2Proof

/-- `VARIANT` (R6). -/
inductive Variant where
  | nmos
  | cmos
deriving DecidableEq, Repr

/-- The parameters fixed at construction (R6 to R10, R53). -/
structure Config where
  /-- `VARIANT` (R6). -/
  variant : Variant
  /-- `CMOS_DECIMAL` (R7). -/
  cmosDecimal : Bool
  /-- `CMOS_BIT_OPS` (R8). -/
  cmosBitOps : Bool
  /-- `CMOS_WAI_STP` (R9). -/
  cmosWaiStp : Bool
  /-- `WIN_LO` (R10). -/
  winLo : Addr
  /-- `WIN_HI` (R10). -/
  winHi : Addr
deriving DecidableEq, Repr

/-- The configuration of the state after reset.
`cmosBitOps`, `cmosWaiStp` and the window have the spec's defaults (R8, R9, R10).
DESIGN CHOICE (log 2, unsafe): the spec gives no default for `VARIANT` and leaves `CMOS_DECIMAL` open (D2). -/
def Config.standard : Config :=
  { variant := .cmos, cmosDecimal := true, cmosBitOps := false, cmosWaiStp := false,
    winLo := 0x0000#16, winHi := 0xFFFF#16 }

/-- The window is one that R10 allows: `WIN_LO ≤ WIN_HI`, the outer bounds being those of a 16-bit address. -/
def Config.wf (cfg : Config) : Bool := decide (cfg.winLo.toNat ≤ cfg.winHi.toNat)

def Config.isCmos (cfg : Config) : Bool :=
  match cfg.variant with
  | .nmos => false
  | .cmos => true

/-- `CMOS_BIT_OPS` counts on a CMOS core only: "An `NMOS` core ignores the parameter" (R8). -/
def Config.hasBitOps (cfg : Config) : Bool := cfg.isCmos && cfg.cmosBitOps

/-- `CMOS_WAI_STP` counts on a CMOS core only (R9). -/
def Config.hasWaiStp (cfg : Config) : Bool := cfg.isCmos && cfg.cmosWaiStp

/-- Whether the core has decimal arithmetic: always on NMOS, by parameter on CMOS (R7, R196). -/
def Config.hasDecimal (cfg : Config) : Bool := !cfg.isCmos || cfg.cmosDecimal

/-- What a peripheral device answers to a read: its new state, and the byte, or `none` where the read "fails with
AccessError on invalid address or mode" (R81).
DESIGN CHOICE (log 9, safe): a failing access may change the device's state too. -/
structure DeviceReadReply where
  next : Nat
  value : Option Byte
deriving DecidableEq, Repr, Inhabited

/-- How a device takes a write (R77, R81): stored, refused as read-only, or failed for another reason. -/
inductive DeviceWriteResult where
  | stored
  | readOnly
  | failed
deriving DecidableEq, Repr, Inhabited

/-- What a peripheral device answers to a write: its new state and how it took the write (R77). -/
structure DeviceWriteReply where
  next : Nat
  result : DeviceWriteResult
deriving DecidableEq, Repr, Inhabited

/-- FREE VALUE (log 8, safe). The contract's `read(address, isProcessorAccess)` of peripheral model `model` in state
`state`, at the full bus address and with the access-origin flag (R76, D6, R81): "any value its own rules allow", or a
failure, which may depend on the flag. What R78 asks of the two origins is `Machine.peripheralRead`. -/
opaque Config.deviceRead (model state : Nat) (addr : Addr) (isProcessorAccess : Bool) : DeviceReadReply

/-- FREE VALUE (log 8, safe). The write of `value` to a peripheral, with the access-origin flag (R77, R81). -/
opaque Config.deviceWrite (model state : Nat) (addr : Addr) (value : Byte) (isProcessorAccess : Bool) :
    DeviceWriteReply

/-- FREE VALUE (log 8, safe). A peripheral's state after its `reset()` (R82). -/
opaque Config.deviceReset (model state : Nat) : Nat

/-- FREE VALUE (log 8, safe). A peripheral's state after one `tick()` (R83). -/
opaque Config.deviceTick (model state : Nat) : Nat

end Sys2Proof
end

