-- ==== Sys2Proof/Syntax.lean ====
section
/-! DEFINITION. The instructions (30_encoding.md, files 41 to 49): one constructor of `Instr` for each mnemonic of
opcode_table.json, whose operand argument carries the addressing mode of the row (log 13). -/

namespace Sys2Proof

/-- The addressing modes by name (30_encoding.md R111, 40_addressing.md R142 to R158). -/
inductive ModeKind where
  | imp | acc | imm | zp | zpx | zpy | abs | absx | absy | ind | izx | izy | zpi | iax | rel | zprel | brk
deriving DecidableEq, Repr

/-- A mode that yields an effective address, with its operand: `op1`, or `op2:op1` (R112, R145 to R155). -/
inductive MemMode where
  | zp (a : Byte)
  | zpx (a : Byte)
  | zpy (a : Byte)
  | abs (w : Addr)
  | absx (w : Addr)
  | absy (w : Addr)
  | ind (w : Addr)
  | izx (a : Byte)
  | izy (a : Byte)
  | zpi (a : Byte)
  | iax (w : Addr)
deriving DecidableEq, Repr

/-- The operand of a read-class instruction (R141, R144). -/
inductive ReadOperand where
  | imm (v : Byte)
  | mem (m : MemMode)
deriving DecidableEq, Repr

/-- The operand of a shift, a rotate, INC or DEC: the accumulator or a memory byte (R141, R143). -/
inductive RmwOperand where
  | acc
  | mem (m : MemMode)
deriving DecidableEq, Repr

/-- The ignored operand bytes of a CMOS undefined no-op, by its length (R121). -/
inductive NopShape where
  | one
  | two (b1 : Byte)
  | three (b1 b2 : Byte)
deriving DecidableEq, Repr

def MemMode.kind : MemMode → ModeKind
  | .zp _ => .zp
  | .zpx _ => .zpx
  | .zpy _ => .zpy
  | .abs _ => .abs
  | .absx _ => .absx
  | .absy _ => .absy
  | .ind _ => .ind
  | .izx _ => .izx
  | .izy _ => .izy
  | .zpi _ => .zpi
  | .iax _ => .iax

def ReadOperand.kind : ReadOperand → ModeKind
  | .imm _ => .imm
  | .mem m => m.kind

def RmwOperand.kind : RmwOperand → ModeKind
  | .acc => .acc
  | .mem m => m.kind

/-- The instructions. A relative operand is the offset byte as encoded (R112, R156, R157). -/
inductive Instr where
  /-- LDA (R170). -/
  | lda (o : ReadOperand)
  /-- LDX (R171). -/
  | ldx (o : ReadOperand)
  /-- LDY (R172). -/
  | ldy (o : ReadOperand)
  /-- STA (R173). -/
  | sta (m : MemMode)
  /-- STX (R174). -/
  | stx (m : MemMode)
  /-- STY (R175). -/
  | sty (m : MemMode)
  /-- STZ, CMOS only (R176). -/
  | stz (m : MemMode)
  /-- TAX (R180). -/
  | tax
  /-- TAY (R181). -/
  | tay
  /-- TXA (R182). -/
  | txa
  /-- TYA (R183). -/
  | tya
  /-- TSX (R184). -/
  | tsx
  /-- TXS (R185). -/
  | txs
  /-- ADC (R194). -/
  | adc (o : ReadOperand)
  /-- SBC (R195). -/
  | sbc (o : ReadOperand)
  /-- INC (R210). -/
  | inc (o : RmwOperand)
  /-- DEC (R211). -/
  | dec (o : RmwOperand)
  /-- INX (R212). -/
  | inx
  /-- INY (R213). -/
  | iny
  /-- DEX (R214). -/
  | dex
  /-- DEY (R215). -/
  | dey
  /-- ASL (R220). -/
  | asl (o : RmwOperand)
  /-- LSR (R221). -/
  | lsr (o : RmwOperand)
  /-- ROL (R222). -/
  | rol (o : RmwOperand)
  /-- ROR (R223). -/
  | ror (o : RmwOperand)
  /-- AND (R230). -/
  | and (o : ReadOperand)
  /-- ORA (R231). -/
  | ora (o : ReadOperand)
  /-- EOR (R232). -/
  | eor (o : ReadOperand)
  /-- CMP (R241). -/
  | cmp (o : ReadOperand)
  /-- CPX (R242). -/
  | cpx (o : ReadOperand)
  /-- CPY (R243). -/
  | cpy (o : ReadOperand)
  /-- BIT (R244). -/
  | bit (o : ReadOperand)
  /-- TSB, CMOS only (R245). -/
  | tsb (m : MemMode)
  /-- TRB, CMOS only (R246). -/
  | trb (m : MemMode)
  /-- RMB0, CMOS with CMOS_BIT_OPS (R247). -/
  | rmb0 (zp : Byte)
  /-- RMB1, CMOS with CMOS_BIT_OPS (R247). -/
  | rmb1 (zp : Byte)
  /-- RMB2, CMOS with CMOS_BIT_OPS (R247). -/
  | rmb2 (zp : Byte)
  /-- RMB3, CMOS with CMOS_BIT_OPS (R247). -/
  | rmb3 (zp : Byte)
  /-- RMB4, CMOS with CMOS_BIT_OPS (R247). -/
  | rmb4 (zp : Byte)
  /-- RMB5, CMOS with CMOS_BIT_OPS (R247). -/
  | rmb5 (zp : Byte)
  /-- RMB6, CMOS with CMOS_BIT_OPS (R247). -/
  | rmb6 (zp : Byte)
  /-- RMB7, CMOS with CMOS_BIT_OPS (R247). -/
  | rmb7 (zp : Byte)
  /-- SMB0, CMOS with CMOS_BIT_OPS (R248). -/
  | smb0 (zp : Byte)
  /-- SMB1, CMOS with CMOS_BIT_OPS (R248). -/
  | smb1 (zp : Byte)
  /-- SMB2, CMOS with CMOS_BIT_OPS (R248). -/
  | smb2 (zp : Byte)
  /-- SMB3, CMOS with CMOS_BIT_OPS (R248). -/
  | smb3 (zp : Byte)
  /-- SMB4, CMOS with CMOS_BIT_OPS (R248). -/
  | smb4 (zp : Byte)
  /-- SMB5, CMOS with CMOS_BIT_OPS (R248). -/
  | smb5 (zp : Byte)
  /-- SMB6, CMOS with CMOS_BIT_OPS (R248). -/
  | smb6 (zp : Byte)
  /-- SMB7, CMOS with CMOS_BIT_OPS (R248). -/
  | smb7 (zp : Byte)
  /-- BPL (R262). -/
  | bpl (off : Byte)
  /-- BMI (R263). -/
  | bmi (off : Byte)
  /-- BVC (R264). -/
  | bvc (off : Byte)
  /-- BVS (R265). -/
  | bvs (off : Byte)
  /-- BCC (R266). -/
  | bcc (off : Byte)
  /-- BCS (R267). -/
  | bcs (off : Byte)
  /-- BNE (R268). -/
  | bne (off : Byte)
  /-- BEQ (R269). -/
  | beq (off : Byte)
  /-- BRA, CMOS only (R270). -/
  | bra (off : Byte)
  /-- BBR0, CMOS with CMOS_BIT_OPS (R271). -/
  | bbr0 (zp off : Byte)
  /-- BBR1, CMOS with CMOS_BIT_OPS (R271). -/
  | bbr1 (zp off : Byte)
  /-- BBR2, CMOS with CMOS_BIT_OPS (R271). -/
  | bbr2 (zp off : Byte)
  /-- BBR3, CMOS with CMOS_BIT_OPS (R271). -/
  | bbr3 (zp off : Byte)
  /-- BBR4, CMOS with CMOS_BIT_OPS (R271). -/
  | bbr4 (zp off : Byte)
  /-- BBR5, CMOS with CMOS_BIT_OPS (R271). -/
  | bbr5 (zp off : Byte)
  /-- BBR6, CMOS with CMOS_BIT_OPS (R271). -/
  | bbr6 (zp off : Byte)
  /-- BBR7, CMOS with CMOS_BIT_OPS (R271). -/
  | bbr7 (zp off : Byte)
  /-- BBS0, CMOS with CMOS_BIT_OPS (R272). -/
  | bbs0 (zp off : Byte)
  /-- BBS1, CMOS with CMOS_BIT_OPS (R272). -/
  | bbs1 (zp off : Byte)
  /-- BBS2, CMOS with CMOS_BIT_OPS (R272). -/
  | bbs2 (zp off : Byte)
  /-- BBS3, CMOS with CMOS_BIT_OPS (R272). -/
  | bbs3 (zp off : Byte)
  /-- BBS4, CMOS with CMOS_BIT_OPS (R272). -/
  | bbs4 (zp off : Byte)
  /-- BBS5, CMOS with CMOS_BIT_OPS (R272). -/
  | bbs5 (zp off : Byte)
  /-- BBS6, CMOS with CMOS_BIT_OPS (R272). -/
  | bbs6 (zp off : Byte)
  /-- BBS7, CMOS with CMOS_BIT_OPS (R272). -/
  | bbs7 (zp off : Byte)
  /-- JMP (R275). -/
  | jmp (m : MemMode)
  /-- JSR (R277). -/
  | jsr (target : Addr)
  /-- RTS (R278). -/
  | rts
  /-- PHA (R290). -/
  | pha
  /-- PHP (R291). -/
  | php
  /-- PLA (R292). -/
  | pla
  /-- PLP (R293). -/
  | plp
  /-- PHX, CMOS only (R294). -/
  | phx
  /-- PHY, CMOS only (R295). -/
  | phy
  /-- PLX, CMOS only (R296). -/
  | plx
  /-- PLY, CMOS only (R297). -/
  | ply
  /-- CLC (R300). -/
  | clc
  /-- SEC (R301). -/
  | sec
  /-- CLI (R302). -/
  | cli
  /-- SEI (R303). -/
  | sei
  /-- CLV (R304). -/
  | clv
  /-- CLD (R305). -/
  | cld
  /-- SED (R306). -/
  | sed
  /-- NOP (R310). -/
  | nop
  /-- BRK with its padding byte (R314, R158). -/
  | brk (pad : Byte)
  /-- RTI (R315). -/
  | rti
  /-- WAI, CMOS with CMOS_WAI_STP (R316). -/
  | wai
  /-- STP, CMOS with CMOS_WAI_STP (R317). -/
  | stp
  /-- ILLEGAL: an NMOS opcode of R120 (R320). -/
  | illegal (op : Byte)
  /-- NOP*: a CMOS undefined no-op with its ignored operand bytes (R121, R321). -/
  | nopStar (op : Byte) (shape : NopShape)
deriving DecidableEq, Repr

/-- The `RMBb` of bit `b` = 0..7 (R122). -/
def Instr.rmb (b : Fin 8) (zp : Byte) : Instr :=
  match b with
  | 0 => .rmb0 zp
  | 1 => .rmb1 zp
  | 2 => .rmb2 zp
  | 3 => .rmb3 zp
  | 4 => .rmb4 zp
  | 5 => .rmb5 zp
  | 6 => .rmb6 zp
  | 7 => .rmb7 zp

/-- The `SMBb` of bit `b` = 0..7 (R122). -/
def Instr.smb (b : Fin 8) (zp : Byte) : Instr :=
  match b with
  | 0 => .smb0 zp
  | 1 => .smb1 zp
  | 2 => .smb2 zp
  | 3 => .smb3 zp
  | 4 => .smb4 zp
  | 5 => .smb5 zp
  | 6 => .smb6 zp
  | 7 => .smb7 zp

/-- The `BBRb` of bit `b` = 0..7 (R122). -/
def Instr.bbr (b : Fin 8) (zp off : Byte) : Instr :=
  match b with
  | 0 => .bbr0 zp off
  | 1 => .bbr1 zp off
  | 2 => .bbr2 zp off
  | 3 => .bbr3 zp off
  | 4 => .bbr4 zp off
  | 5 => .bbr5 zp off
  | 6 => .bbr6 zp off
  | 7 => .bbr7 zp off

/-- The `BBSb` of bit `b` = 0..7 (R122). -/
def Instr.bbs (b : Fin 8) (zp off : Byte) : Instr :=
  match b with
  | 0 => .bbs0 zp off
  | 1 => .bbs1 zp off
  | 2 => .bbs2 zp off
  | 3 => .bbs3 zp off
  | 4 => .bbs4 zp off
  | 5 => .bbs5 zp off
  | 6 => .bbs6 zp off
  | 7 => .bbs7 zp off

end Sys2Proof
end

