-- ==== Sys2Proof/WellFormed.lean ====
section
/-! DEFINITION. Which instructions a configuration has (30_encoding.md R117 to R123), read from the Operands and
Encoding lines of files 41 to 49, apart from the opcode maps that Decode.lean writes out. -/

namespace Sys2Proof

/-- A mode of both variants, or of CMOS only (R119). -/
def Config.allows (cfg : Config) (both cmosOnly : List ModeKind) (k : ModeKind) : Bool :=
  both.contains k || (cfg.isCmos && cmosOnly.contains k)

/-- The modes of LDA, ADC, SBC, AND, ORA, EOR and CMP (R170, R194, R195, R230 to R232, R241). -/
def aluModes : List ModeKind := [.imm, .zp, .zpx, .abs, .absx, .absy, .izx, .izy]

/-- The modes of ASL, LSR, ROL and ROR (R220 to R223), and on CMOS of INC and DEC (R210, R211). -/
def shiftModes : List ModeKind := [.acc, .zp, .zpx, .abs, .absx]

/-- The 105 illegal opcodes of NMOS (R120). -/
def nmosIllegal : List Byte :=
  [0x02, 0x03, 0x04, 0x07, 0x0B, 0x0C, 0x0F, 0x12, 0x13, 0x14, 0x17, 0x1A, 0x1B, 0x1C, 0x1F] ++
  [0x22, 0x23, 0x27, 0x2B, 0x2F, 0x32, 0x33, 0x34, 0x37, 0x3A, 0x3B, 0x3C, 0x3F, 0x42, 0x43] ++
  [0x44, 0x47, 0x4B, 0x4F, 0x52, 0x53, 0x54, 0x57, 0x5A, 0x5B, 0x5C, 0x5F, 0x62, 0x63, 0x64] ++
  [0x67, 0x6B, 0x6F, 0x72, 0x73, 0x74, 0x77, 0x7A, 0x7B, 0x7C, 0x7F, 0x80, 0x82, 0x83, 0x87] ++
  [0x89, 0x8B, 0x8F, 0x92, 0x93, 0x97, 0x9B, 0x9C, 0x9E, 0x9F, 0xA3, 0xA7, 0xAB, 0xAF, 0xB2] ++
  [0xB3, 0xB7, 0xBB, 0xBF, 0xC2, 0xC3, 0xC7, 0xCB, 0xCF, 0xD2, 0xD3, 0xD4, 0xD7, 0xDA, 0xDB] ++
  [0xDC, 0xDF, 0xE2, 0xE3, 0xE7, 0xEB, 0xEF, 0xF2, 0xF3, 0xF4, 0xF7, 0xFA, 0xFB, 0xFC, 0xFF]

/-- The two-byte undefined opcodes of CMOS (R121). -/
def cmosNop2 : List Byte := [0x02, 0x22, 0x42, 0x62, 0x82, 0xC2, 0xE2, 0x44, 0x54, 0xD4, 0xF4]

/-- The three-byte undefined opcodes of CMOS (R121). -/
def cmosNop3 : List Byte := [0x5C, 0xDC, 0xFC]

/-- The one-byte undefined opcodes of CMOS (R121): every x3 and xB, x7 and xF unless CMOS_BIT_OPS, CB and DB unless
CMOS_WAI_STP. -/
def Config.isNop1 (cfg : Config) (op : Byte) : Bool :=
  let lo := op.toNat % 16
  (lo == 0x3 || lo == 0xB || (!cfg.cmosBitOps && (lo == 0x7 || lo == 0xF))) &&
    !(cfg.cmosWaiStp && (op == 0xCB || op == 0xDB))

/-- The instruction exists under the configuration, with an addressing mode that it has there. -/
def Instr.wellFormed (cfg : Config) : Instr → Bool
  | .lda o | .adc o | .sbc o | .and o | .ora o | .eor o | .cmp o => cfg.allows aluModes [.zpi] o.kind
  | .ldx o => cfg.allows [.imm, .zp, .zpy, .abs, .absy] [] o.kind
  | .ldy o => cfg.allows [.imm, .zp, .zpx, .abs, .absx] [] o.kind
  | .cpx o | .cpy o => cfg.allows [.imm, .zp, .abs] [] o.kind
  | .bit o => cfg.allows [.zp, .abs] [.imm, .zpx, .absx] o.kind
  | .sta m => cfg.allows [.zp, .zpx, .abs, .absx, .absy, .izx, .izy] [.zpi] m.kind
  | .stx m => cfg.allows [.zp, .zpy, .abs] [] m.kind
  | .sty m => cfg.allows [.zp, .zpx, .abs] [] m.kind
  | .stz m => cfg.allows [] [.zp, .zpx, .abs, .absx] m.kind
  | .asl o | .lsr o | .rol o | .ror o => cfg.allows shiftModes [] o.kind
  | .inc o | .dec o => cfg.allows [.zp, .zpx, .abs, .absx] [.acc] o.kind
  | .tsb m | .trb m => cfg.allows [] [.zp, .abs] m.kind
  | .jmp m => cfg.allows [.abs, .ind] [.iax] m.kind
  | .tax | .tay | .txa | .tya | .tsx | .txs | .inx | .iny | .dex | .dey => true
  | .bpl _ | .bmi _ | .bvc _ | .bvs _ | .bcc _ | .bcs _ | .bne _ | .beq _ => true
  | .jsr _ | .rts | .pha | .php | .pla | .plp | .brk _ | .rti => true
  | .clc | .sec | .cli | .sei | .clv | .cld | .sed | .nop => true
  | .bra _ | .phx | .phy | .plx | .ply => cfg.isCmos
  | .rmb0 _ | .rmb1 _ | .rmb2 _ | .rmb3 _ | .rmb4 _ | .rmb5 _ | .rmb6 _ | .rmb7 _
  | .smb0 _ | .smb1 _ | .smb2 _ | .smb3 _ | .smb4 _ | .smb5 _ | .smb6 _ | .smb7 _ => cfg.hasBitOps
  | .bbr0 _ _ | .bbr1 _ _ | .bbr2 _ _ | .bbr3 _ _ | .bbr4 _ _ | .bbr5 _ _ | .bbr6 _ _ | .bbr7 _ _
  | .bbs0 _ _ | .bbs1 _ _ | .bbs2 _ _ | .bbs3 _ _ | .bbs4 _ _ | .bbs5 _ _ | .bbs6 _ _ | .bbs7 _ _ => cfg.hasBitOps
  | .wai | .stp => cfg.hasWaiStp
  | .illegal op => !cfg.isCmos && nmosIllegal.contains op
  | .nopStar op .one => cfg.isCmos && cfg.isNop1 op
  | .nopStar op (.two _) => cfg.isCmos && cmosNop2.contains op
  | .nopStar op (.three _ _) => cfg.isCmos && cmosNop3.contains op

end Sys2Proof
end

