-- ==== Sys2Proof/Decode.lean ====
section
/-! DEFINITION. The decode table and the decoder (30_encoding.md R110 to R128), and the encoder, written from the
Encoding lines of files 41 to 49. -/

namespace Sys2Proof

/-- The length in bytes that a mode gives an instruction (R111). -/
def ModeKind.length : ModeKind → Nat
  | .imp | .acc => 1
  | .imm | .zp | .zpx | .zpy | .izx | .izy | .zpi | .rel | .brk => 2
  | .abs | .absx | .absy | .ind | .iax | .zprel => 3

/-- The `kind` field of a descriptor (R114). -/
inductive DescKind where
  | defined
  | illegal
  | cmosNop
  | cmosBitop
  | cmosWaistp
deriving DecidableEq, Repr

/-- The operation descriptor of an opcode (R114). The mnemonic is the constructor that `build` makes from the opcode,
`op1` and `op2`. -/
structure Desc where
  kind : DescKind
  mode : ModeKind
  baseCycles : Nat
  pagePenalty : Bool
  build : Byte → Byte → Byte → Instr

/-- `length` of R114; an NMOS illegal opcode has length 1 (R128). -/
def Desc.length (d : Desc) : Nat := d.mode.length

/-- The mode with its operand from `op1` and `op2` (R112). -/
def memModeOf (k : ModeKind) (op1 op2 : Byte) : MemMode :=
  match k with
  | .zp | .imp | .acc | .imm | .rel | .zprel | .brk => .zp op1
  | .zpx => .zpx op1
  | .zpy => .zpy op1
  | .abs => .abs (word op2 op1)
  | .absx => .absx (word op2 op1)
  | .absy => .absy (word op2 op1)
  | .ind => .ind (word op2 op1)
  | .izx => .izx op1
  | .izy => .izy op1
  | .zpi => .zpi op1
  | .iax => .iax (word op2 op1)

def readOperandOf (k : ModeKind) (op1 op2 : Byte) : ReadOperand :=
  if k = .imm then .imm op1 else .mem (memModeOf k op1 op2)

def rmwOperandOf (k : ModeKind) (op1 op2 : Byte) : RmwOperand :=
  if k = .acc then .acc else .mem (memModeOf k op1 op2)

/-! The kinds of cell of the opcode maps. A name that ends in `p` is a cell with `+p` (R117). -/

def Desc.rd (c : ReadOperand → Instr) (k : ModeKind) (cycles : Nat) : Desc :=
  ⟨.defined, k, cycles, false, fun _ op1 op2 => c (readOperandOf k op1 op2)⟩

def Desc.rdp (c : ReadOperand → Instr) (k : ModeKind) (cycles : Nat) : Desc :=
  ⟨.defined, k, cycles, true, fun _ op1 op2 => c (readOperandOf k op1 op2)⟩

def Desc.rw (c : RmwOperand → Instr) (k : ModeKind) (cycles : Nat) : Desc :=
  ⟨.defined, k, cycles, false, fun _ op1 op2 => c (rmwOperandOf k op1 op2)⟩

def Desc.rwp (c : RmwOperand → Instr) (k : ModeKind) (cycles : Nat) : Desc :=
  ⟨.defined, k, cycles, true, fun _ op1 op2 => c (rmwOperandOf k op1 op2)⟩

/-- A store, TSB, TRB or JMP. -/
def Desc.ea (c : MemMode → Instr) (k : ModeKind) (cycles : Nat) : Desc :=
  ⟨.defined, k, cycles, false, fun _ op1 op2 => c (memModeOf k op1 op2)⟩

def Desc.rel (c : Byte → Instr) (cycles : Nat) : Desc :=
  ⟨.defined, .rel, cycles, false, fun _ op1 _ => c op1⟩

def Desc.imp (i : Instr) (cycles : Nat) : Desc :=
  ⟨.defined, .imp, cycles, false, fun _ _ _ => i⟩

def Desc.jsr (cycles : Nat) : Desc :=
  ⟨.defined, .abs, cycles, false, fun _ op1 op2 => .jsr (word op2 op1)⟩

def Desc.brk (cycles : Nat) : Desc :=
  ⟨.defined, .brk, cycles, false, fun _ op1 _ => .brk op1⟩

/-- An illegal opcode of NMOS (R120): a step on it costs nothing (R335). -/
def Desc.ill : Desc :=
  ⟨.illegal, .imp, 0, false, fun op _ _ => .illegal op⟩

/-- An undefined opcode of CMOS (R121). -/
def Desc.nop (k : ModeKind) (cycles : Nat) : Desc :=
  ⟨.cmosNop, k, cycles, false, fun op op1 op2 =>
    .nopStar op (match k.length with
      | 1 => .one
      | 2 => .two op1
      | _ => .three op1 op2)⟩

/-- Row 0x of R117. -/
def nmosMap0 : List Desc :=
  open Desc in
  [brk 7, rd .ora .izx 6, ill, ill, ill, rd .ora .zp 3, rw .asl .zp 5, ill,
    imp .php 3, rd .ora .imm 2, rw .asl .acc 2, ill, ill, rd .ora .abs 4, rw .asl .abs 6, ill]

/-- Row 1x of R117. -/
def nmosMap1 : List Desc :=
  open Desc in
  [rel .bpl 2, rdp .ora .izy 5, ill, ill, ill, rd .ora .zpx 4, rw .asl .zpx 6, ill,
    imp .clc 2, rdp .ora .absy 4, ill, ill, ill, rdp .ora .absx 4, rw .asl .absx 7, ill]

/-- Row 2x of R117. -/
def nmosMap2 : List Desc :=
  open Desc in
  [jsr 6, rd .and .izx 6, ill, ill, rd .bit .zp 3, rd .and .zp 3, rw .rol .zp 5, ill,
    imp .plp 4, rd .and .imm 2, rw .rol .acc 2, ill, rd .bit .abs 4, rd .and .abs 4, rw .rol .abs 6, ill]

/-- Row 3x of R117. -/
def nmosMap3 : List Desc :=
  open Desc in
  [rel .bmi 2, rdp .and .izy 5, ill, ill, ill, rd .and .zpx 4, rw .rol .zpx 6, ill,
    imp .sec 2, rdp .and .absy 4, ill, ill, ill, rdp .and .absx 4, rw .rol .absx 7, ill]

/-- Row 4x of R117. -/
def nmosMap4 : List Desc :=
  open Desc in
  [imp .rti 6, rd .eor .izx 6, ill, ill, ill, rd .eor .zp 3, rw .lsr .zp 5, ill,
    imp .pha 3, rd .eor .imm 2, rw .lsr .acc 2, ill, ea .jmp .abs 3, rd .eor .abs 4, rw .lsr .abs 6, ill]

/-- Row 5x of R117. -/
def nmosMap5 : List Desc :=
  open Desc in
  [rel .bvc 2, rdp .eor .izy 5, ill, ill, ill, rd .eor .zpx 4, rw .lsr .zpx 6, ill,
    imp .cli 2, rdp .eor .absy 4, ill, ill, ill, rdp .eor .absx 4, rw .lsr .absx 7, ill]

/-- Row 6x of R117. -/
def nmosMap6 : List Desc :=
  open Desc in
  [imp .rts 6, rd .adc .izx 6, ill, ill, ill, rd .adc .zp 3, rw .ror .zp 5, ill,
    imp .pla 4, rd .adc .imm 2, rw .ror .acc 2, ill, ea .jmp .ind 5, rd .adc .abs 4, rw .ror .abs 6, ill]

/-- Row 7x of R117. -/
def nmosMap7 : List Desc :=
  open Desc in
  [rel .bvs 2, rdp .adc .izy 5, ill, ill, ill, rd .adc .zpx 4, rw .ror .zpx 6, ill,
    imp .sei 2, rdp .adc .absy 4, ill, ill, ill, rdp .adc .absx 4, rw .ror .absx 7, ill]

/-- Row 8x of R117. -/
def nmosMap8 : List Desc :=
  open Desc in
  [ill, ea .sta .izx 6, ill, ill, ea .sty .zp 3, ea .sta .zp 3, ea .stx .zp 3, ill,
    imp .dey 2, ill, imp .txa 2, ill, ea .sty .abs 4, ea .sta .abs 4, ea .stx .abs 4, ill]

/-- Row 9x of R117. -/
def nmosMap9 : List Desc :=
  open Desc in
  [rel .bcc 2, ea .sta .izy 6, ill, ill, ea .sty .zpx 4, ea .sta .zpx 4, ea .stx .zpy 4, ill,
    imp .tya 2, ea .sta .absy 5, imp .txs 2, ill, ill, ea .sta .absx 5, ill, ill]

/-- Row Ax of R117. -/
def nmosMapA : List Desc :=
  open Desc in
  [rd .ldy .imm 2, rd .lda .izx 6, rd .ldx .imm 2, ill, rd .ldy .zp 3, rd .lda .zp 3, rd .ldx .zp 3, ill,
    imp .tay 2, rd .lda .imm 2, imp .tax 2, ill, rd .ldy .abs 4, rd .lda .abs 4, rd .ldx .abs 4, ill]

/-- Row Bx of R117. -/
def nmosMapB : List Desc :=
  open Desc in
  [rel .bcs 2, rdp .lda .izy 5, ill, ill, rd .ldy .zpx 4, rd .lda .zpx 4, rd .ldx .zpy 4, ill,
    imp .clv 2, rdp .lda .absy 4, imp .tsx 2, ill, rdp .ldy .absx 4, rdp .lda .absx 4, rdp .ldx .absy 4, ill]

/-- Row Cx of R117. -/
def nmosMapC : List Desc :=
  open Desc in
  [rd .cpy .imm 2, rd .cmp .izx 6, ill, ill, rd .cpy .zp 3, rd .cmp .zp 3, rw .dec .zp 5, ill,
    imp .iny 2, rd .cmp .imm 2, imp .dex 2, ill, rd .cpy .abs 4, rd .cmp .abs 4, rw .dec .abs 6, ill]

/-- Row Dx of R117. -/
def nmosMapD : List Desc :=
  open Desc in
  [rel .bne 2, rdp .cmp .izy 5, ill, ill, ill, rd .cmp .zpx 4, rw .dec .zpx 6, ill,
    imp .cld 2, rdp .cmp .absy 4, ill, ill, ill, rdp .cmp .absx 4, rw .dec .absx 7, ill]

/-- Row Ex of R117. -/
def nmosMapE : List Desc :=
  open Desc in
  [rd .cpx .imm 2, rd .sbc .izx 6, ill, ill, rd .cpx .zp 3, rd .sbc .zp 3, rw .inc .zp 5, ill,
    imp .inx 2, rd .sbc .imm 2, imp .nop 2, ill, rd .cpx .abs 4, rd .sbc .abs 4, rw .inc .abs 6, ill]

/-- Row Fx of R117. -/
def nmosMapF : List Desc :=
  open Desc in
  [rel .beq 2, rdp .sbc .izy 5, ill, ill, ill, rd .sbc .zpx 4, rw .inc .zpx 6, ill,
    imp .sed 2, rdp .sbc .absy 4, ill, ill, ill, rdp .sbc .absx 4, rw .inc .absx 7, ill]

/-- The NMOS opcode map (R117): rows by high nibble, columns by low nibble. -/
def nmosMap : List (List Desc) :=
  [nmosMap0, nmosMap1, nmosMap2, nmosMap3, nmosMap4, nmosMap5, nmosMap6, nmosMap7] ++
    [nmosMap8, nmosMap9, nmosMapA, nmosMapB, nmosMapC, nmosMapD, nmosMapE, nmosMapF]

/-- Row 0x of R118. -/
def cmosMap0 : List Desc :=
  open Desc in
  [brk 7, rd .ora .izx 6, nop .imm 2, nop .imp 1, ea .tsb .zp 5, rd .ora .zp 3, rw .asl .zp 5, nop .imp 1,
    imp .php 3, rd .ora .imm 2, rw .asl .acc 2, nop .imp 1, ea .tsb .abs 6, rd .ora .abs 4, rw .asl .abs 6, nop .imp 1]

/-- Row 1x of R118. -/
def cmosMap1 : List Desc :=
  open Desc in
  [rel .bpl 2, rdp .ora .izy 5, rd .ora .zpi 5, nop .imp 1, ea .trb .zp 5, rd .ora .zpx 4, rw .asl .zpx 6, nop .imp 1,
    imp .clc 2, rdp .ora .absy 4, rw .inc .acc 2, nop .imp 1, ea .trb .abs 6, rdp .ora .absx 4, rwp .asl .absx 6, nop .imp 1]

/-- Row 2x of R118. -/
def cmosMap2 : List Desc :=
  open Desc in
  [jsr 6, rd .and .izx 6, nop .imm 2, nop .imp 1, rd .bit .zp 3, rd .and .zp 3, rw .rol .zp 5, nop .imp 1,
    imp .plp 4, rd .and .imm 2, rw .rol .acc 2, nop .imp 1, rd .bit .abs 4, rd .and .abs 4, rw .rol .abs 6, nop .imp 1]

/-- Row 3x of R118. -/
def cmosMap3 : List Desc :=
  open Desc in
  [rel .bmi 2, rdp .and .izy 5, rd .and .zpi 5, nop .imp 1, rd .bit .zpx 4, rd .and .zpx 4, rw .rol .zpx 6, nop .imp 1,
    imp .sec 2, rdp .and .absy 4, rw .dec .acc 2, nop .imp 1, rdp .bit .absx 4, rdp .and .absx 4, rwp .rol .absx 6, nop .imp 1]

/-- Row 4x of R118. -/
def cmosMap4 : List Desc :=
  open Desc in
  [imp .rti 6, rd .eor .izx 6, nop .imm 2, nop .imp 1, nop .zp 3, rd .eor .zp 3, rw .lsr .zp 5, nop .imp 1,
    imp .pha 3, rd .eor .imm 2, rw .lsr .acc 2, nop .imp 1, ea .jmp .abs 3, rd .eor .abs 4, rw .lsr .abs 6, nop .imp 1]

/-- Row 5x of R118. -/
def cmosMap5 : List Desc :=
  open Desc in
  [rel .bvc 2, rdp .eor .izy 5, rd .eor .zpi 5, nop .imp 1, nop .zpx 4, rd .eor .zpx 4, rw .lsr .zpx 6, nop .imp 1,
    imp .cli 2, rdp .eor .absy 4, imp .phy 3, nop .imp 1, nop .abs 8, rdp .eor .absx 4, rwp .lsr .absx 6, nop .imp 1]

/-- Row 6x of R118. -/
def cmosMap6 : List Desc :=
  open Desc in
  [imp .rts 6, rd .adc .izx 6, nop .imm 2, nop .imp 1, ea .stz .zp 3, rd .adc .zp 3, rw .ror .zp 5, nop .imp 1,
    imp .pla 4, rd .adc .imm 2, rw .ror .acc 2, nop .imp 1, ea .jmp .ind 6, rd .adc .abs 4, rw .ror .abs 6, nop .imp 1]

/-- Row 7x of R118. -/
def cmosMap7 : List Desc :=
  open Desc in
  [rel .bvs 2, rdp .adc .izy 5, rd .adc .zpi 5, nop .imp 1, ea .stz .zpx 4, rd .adc .zpx 4, rw .ror .zpx 6, nop .imp 1,
    imp .sei 2, rdp .adc .absy 4, imp .ply 4, nop .imp 1, ea .jmp .iax 6, rdp .adc .absx 4, rwp .ror .absx 6, nop .imp 1]

/-- Row 8x of R118. -/
def cmosMap8 : List Desc :=
  open Desc in
  [rel .bra 2, ea .sta .izx 6, nop .imm 2, nop .imp 1, ea .sty .zp 3, ea .sta .zp 3, ea .stx .zp 3, nop .imp 1,
    imp .dey 2, rd .bit .imm 2, imp .txa 2, nop .imp 1, ea .sty .abs 4, ea .sta .abs 4, ea .stx .abs 4, nop .imp 1]

/-- Row 9x of R118. -/
def cmosMap9 : List Desc :=
  open Desc in
  [rel .bcc 2, ea .sta .izy 6, ea .sta .zpi 5, nop .imp 1, ea .sty .zpx 4, ea .sta .zpx 4, ea .stx .zpy 4, nop .imp 1,
    imp .tya 2, ea .sta .absy 5, imp .txs 2, nop .imp 1, ea .stz .abs 4, ea .sta .absx 5, ea .stz .absx 5, nop .imp 1]

/-- Row Ax of R118. -/
def cmosMapA : List Desc :=
  open Desc in
  [rd .ldy .imm 2, rd .lda .izx 6, rd .ldx .imm 2, nop .imp 1, rd .ldy .zp 3, rd .lda .zp 3, rd .ldx .zp 3, nop .imp 1,
    imp .tay 2, rd .lda .imm 2, imp .tax 2, nop .imp 1, rd .ldy .abs 4, rd .lda .abs 4, rd .ldx .abs 4, nop .imp 1]

/-- Row Bx of R118. -/
def cmosMapB : List Desc :=
  open Desc in
  [rel .bcs 2, rdp .lda .izy 5, rd .lda .zpi 5, nop .imp 1, rd .ldy .zpx 4, rd .lda .zpx 4, rd .ldx .zpy 4, nop .imp 1,
    imp .clv 2, rdp .lda .absy 4, imp .tsx 2, nop .imp 1, rdp .ldy .absx 4, rdp .lda .absx 4, rdp .ldx .absy 4, nop .imp 1]

/-- Row Cx of R118. -/
def cmosMapC : List Desc :=
  open Desc in
  [rd .cpy .imm 2, rd .cmp .izx 6, nop .imm 2, nop .imp 1, rd .cpy .zp 3, rd .cmp .zp 3, rw .dec .zp 5, nop .imp 1,
    imp .iny 2, rd .cmp .imm 2, imp .dex 2, nop .imp 1, rd .cpy .abs 4, rd .cmp .abs 4, rw .dec .abs 6, nop .imp 1]

/-- Row Dx of R118. -/
def cmosMapD : List Desc :=
  open Desc in
  [rel .bne 2, rdp .cmp .izy 5, rd .cmp .zpi 5, nop .imp 1, nop .zpx 4, rd .cmp .zpx 4, rw .dec .zpx 6, nop .imp 1,
    imp .cld 2, rdp .cmp .absy 4, imp .phx 3, nop .imp 1, nop .abs 4, rdp .cmp .absx 4, rw .dec .absx 7, nop .imp 1]

/-- Row Ex of R118. -/
def cmosMapE : List Desc :=
  open Desc in
  [rd .cpx .imm 2, rd .sbc .izx 6, nop .imm 2, nop .imp 1, rd .cpx .zp 3, rd .sbc .zp 3, rw .inc .zp 5, nop .imp 1,
    imp .inx 2, rd .sbc .imm 2, imp .nop 2, nop .imp 1, rd .cpx .abs 4, rd .sbc .abs 4, rw .inc .abs 6, nop .imp 1]

/-- Row Fx of R118. -/
def cmosMapF : List Desc :=
  open Desc in
  [rel .beq 2, rdp .sbc .izy 5, rd .sbc .zpi 5, nop .imp 1, nop .zpx 4, rd .sbc .zpx 4, rw .inc .zpx 6, nop .imp 1,
    imp .sed 2, rdp .sbc .absy 4, imp .plx 4, nop .imp 1, nop .abs 4, rdp .sbc .absx 4, rw .inc .absx 7, nop .imp 1]

/-- The CMOS opcode map with both optional parameters false (R118). -/
def cmosMap : List (List Desc) :=
  [cmosMap0, cmosMap1, cmosMap2, cmosMap3, cmosMap4, cmosMap5, cmosMap6, cmosMap7] ++
    [cmosMap8, cmosMap9, cmosMapA, cmosMapB, cmosMapC, cmosMapD, cmosMapE, cmosMapF]

/-- The cell of an opcode map. -/
def cellOf (map : List (List Desc)) (op : Byte) : Desc :=
  (map.getD (op.toNat / 16) []).getD (op.toNat % 16) Desc.ill

/-- The x7 and xF cells with CMOS_BIT_OPS (R122): `b` is the high nibble mod 8. -/
def bitOpCell (op : Byte) : Desc :=
  let b : Fin 8 := Fin.ofNat 8 (op.toNat / 16)
  if op.toNat % 16 = 0x7 then
    ⟨.cmosBitop, .zp, 5, false, fun _ op1 _ => if op.toNat < 0x80 then .rmb b op1 else .smb b op1⟩
  else
    ⟨.cmosBitop, .zprel, 5, false, fun _ op1 op2 => if op.toNat < 0x80 then .bbr b op1 op2 else .bbs b op1 op2⟩

/-- 0xCB and 0xDB with CMOS_WAI_STP (R123). -/
def waiStpCell (op : Byte) : Desc :=
  ⟨.cmosWaistp, .imp, 3, false, fun _ _ _ => if op = 0xCB then .wai else .stp⟩

/-- `decode` of R114: the descriptor of an opcode under a configuration, total (R115). -/
def descOf (cfg : Config) (op : Byte) : Desc :=
  if !cfg.isCmos then cellOf nmosMap op
  else if (op.toNat % 16 = 0x7 || op.toNat % 16 = 0xF) && cfg.cmosBitOps then bitOpCell op
  else if (op = 0xCB || op = 0xDB) && cfg.cmosWaiStp then waiStpCell op
  else cellOf cmosMap op

/-- The instruction of an opcode and its operand bytes; a byte beyond the length is ignored. -/
def instrOf (cfg : Config) (op op1 op2 : Byte) : Instr :=
  (descOf cfg op).build op op1 op2

/-- Why bytes are no instruction: there is no opcode byte, or fewer operand bytes than the length asks for (R128). -/
inductive DecodeError where
  | noOpcode
  | truncated (op : Byte)
deriving DecidableEq, Repr

/-- The decoder's answer: an instruction with the bytes after it, or a rejection by name. -/
inductive Decoded where
  | ok (i : Instr) (rest : List Byte)
  | rejected (e : DecodeError)
deriving DecidableEq, Repr

/-- Reads one instruction from a sequence of bytes at rising addresses (R110, R111, R128). -/
def decode (cfg : Config) : List Byte → Decoded
  | [] => .rejected .noOpcode
  | op :: rest =>
    match (descOf cfg op).length, rest with
    | 1, rest => .ok (instrOf cfg op 0#8 0#8) rest
    | 2, op1 :: rest => .ok (instrOf cfg op op1 0#8) rest
    | 3, op1 :: op2 :: rest => .ok (instrOf cfg op op1 op2) rest
    | _, _ => .rejected (.truncated op)

/-- The three bytes of a number whose bit 0 is bit 0 of the first byte; the bits from `nbits` on are 0. -/
def tableBytes (nbits w : Nat) : List Byte :=
  [byteOf (w % 2 ^ nbits) 0, byteOf (w % 2 ^ nbits) 1, byteOf (w % 2 ^ nbits) 2]

/-- The instruction read from a word of opcode_table.json, under the configuration of the state after reset
(log 15: an opcode that the table gives several rows has one of them in each configuration). -/
def decodeTableWord (nbits w : Nat) : Option Instr :=
  match decode Config.standard (tableBytes nbits w) with
  | .ok i _ => some i
  | .rejected _ => none

/-! ## The encoder -/

/-- The operand bytes after the opcode, low byte first (R111, R112). -/
def MemMode.operandBytes : MemMode → List Byte
  | .zp a | .zpx a | .zpy a | .izx a | .izy a | .zpi a => [a]
  | .abs w | .absx w | .absy w | .ind w | .iax w => [lo8 w, hi8 w]

def ReadOperand.operandBytes : ReadOperand → List Byte
  | .imm v => [v]
  | .mem m => m.operandBytes

def RmwOperand.operandBytes : RmwOperand → List Byte
  | .acc => []
  | .mem m => m.operandBytes

def NopShape.operandBytes : NopShape → List Byte
  | .one => []
  | .two b1 => [b1]
  | .three b1 b2 => [b1, b2]

/-- The operand bytes of an instruction (R111, R112, R157, R158). -/
def Instr.operandBytes : Instr → List Byte
  | .lda o | .ldx o | .ldy o | .adc o | .sbc o | .and o | .ora o | .eor o
  | .cmp o | .cpx o | .cpy o | .bit o => o.operandBytes
  | .inc o | .dec o | .asl o | .lsr o | .rol o | .ror o => o.operandBytes
  | .sta m | .stx m | .sty m | .stz m | .tsb m | .trb m | .jmp m => m.operandBytes
  | .bpl off | .bmi off | .bvc off | .bvs off | .bcc off | .bcs off | .bne off | .beq off
  | .bra off => [off]
  | .rmb0 zp | .rmb1 zp | .rmb2 zp | .rmb3 zp | .rmb4 zp | .rmb5 zp | .rmb6 zp | .rmb7 zp
  | .smb0 zp | .smb1 zp | .smb2 zp | .smb3 zp | .smb4 zp | .smb5 zp | .smb6 zp | .smb7 zp => [zp]
  | .bbr0 zp off | .bbr1 zp off | .bbr2 zp off | .bbr3 zp off | .bbr4 zp off | .bbr5 zp off | .bbr6 zp off | .bbr7 zp off
  | .bbs0 zp off | .bbs1 zp off | .bbs2 zp off | .bbs3 zp off | .bbs4 zp off | .bbs5 zp off | .bbs6 zp off | .bbs7 zp off => [zp, off]
  | .jsr target => [lo8 target, hi8 target]
  | .brk pad => [pad]
  | .tax | .tay | .txa | .tya | .tsx | .txs | .inx | .iny
  | .dex | .dey | .rts | .pha | .php | .pla | .plp | .phx
  | .phy | .plx | .ply | .clc | .sec | .cli | .sei | .clv
  | .cld | .sed | .nop | .rti | .wai | .stp => []
  | .illegal _ => []
  | .nopStar _ shape => shape.operandBytes

/-- The length of an instruction in bytes (R111). -/
def Instr.length (i : Instr) : Nat := 1 + i.operandBytes.length

/-- The opcode of an instruction, from the Encoding line of its rule; `none` for a mode that no variant gives it. -/
def Instr.opcode? : Instr → Option Byte
  | .lda o => List.lookup o.kind [(.imm, 0xA9), (.zp, 0xA5), (.zpx, 0xB5), (.abs, 0xAD), (.absx, 0xBD), (.absy, 0xB9), (.izx, 0xA1), (.izy, 0xB1), (.zpi, 0xB2)]
  | .ldx o => List.lookup o.kind [(.imm, 0xA2), (.zp, 0xA6), (.zpy, 0xB6), (.abs, 0xAE), (.absy, 0xBE)]
  | .ldy o => List.lookup o.kind [(.imm, 0xA0), (.zp, 0xA4), (.zpx, 0xB4), (.abs, 0xAC), (.absx, 0xBC)]
  | .sta m => List.lookup m.kind [(.zp, 0x85), (.zpx, 0x95), (.abs, 0x8D), (.absx, 0x9D), (.absy, 0x99), (.izx, 0x81), (.izy, 0x91), (.zpi, 0x92)]
  | .stx m => List.lookup m.kind [(.zp, 0x86), (.zpy, 0x96), (.abs, 0x8E)]
  | .sty m => List.lookup m.kind [(.zp, 0x84), (.zpx, 0x94), (.abs, 0x8C)]
  | .stz m => List.lookup m.kind [(.zp, 0x64), (.zpx, 0x74), (.abs, 0x9C), (.absx, 0x9E)]
  | .tax => some 0xAA
  | .tay => some 0xA8
  | .txa => some 0x8A
  | .tya => some 0x98
  | .tsx => some 0xBA
  | .txs => some 0x9A
  | .adc o => List.lookup o.kind [(.imm, 0x69), (.zp, 0x65), (.zpx, 0x75), (.abs, 0x6D), (.absx, 0x7D), (.absy, 0x79), (.izx, 0x61), (.izy, 0x71), (.zpi, 0x72)]
  | .sbc o => List.lookup o.kind [(.imm, 0xE9), (.zp, 0xE5), (.zpx, 0xF5), (.abs, 0xED), (.absx, 0xFD), (.absy, 0xF9), (.izx, 0xE1), (.izy, 0xF1), (.zpi, 0xF2)]
  | .inc o => List.lookup o.kind [(.zp, 0xE6), (.zpx, 0xF6), (.abs, 0xEE), (.absx, 0xFE), (.acc, 0x1A)]
  | .dec o => List.lookup o.kind [(.zp, 0xC6), (.zpx, 0xD6), (.abs, 0xCE), (.absx, 0xDE), (.acc, 0x3A)]
  | .inx => some 0xE8
  | .iny => some 0xC8
  | .dex => some 0xCA
  | .dey => some 0x88
  | .asl o => List.lookup o.kind [(.acc, 0x0A), (.zp, 0x06), (.zpx, 0x16), (.abs, 0x0E), (.absx, 0x1E)]
  | .lsr o => List.lookup o.kind [(.acc, 0x4A), (.zp, 0x46), (.zpx, 0x56), (.abs, 0x4E), (.absx, 0x5E)]
  | .rol o => List.lookup o.kind [(.acc, 0x2A), (.zp, 0x26), (.zpx, 0x36), (.abs, 0x2E), (.absx, 0x3E)]
  | .ror o => List.lookup o.kind [(.acc, 0x6A), (.zp, 0x66), (.zpx, 0x76), (.abs, 0x6E), (.absx, 0x7E)]
  | .and o => List.lookup o.kind [(.imm, 0x29), (.zp, 0x25), (.zpx, 0x35), (.abs, 0x2D), (.absx, 0x3D), (.absy, 0x39), (.izx, 0x21), (.izy, 0x31), (.zpi, 0x32)]
  | .ora o => List.lookup o.kind [(.imm, 0x09), (.zp, 0x05), (.zpx, 0x15), (.abs, 0x0D), (.absx, 0x1D), (.absy, 0x19), (.izx, 0x01), (.izy, 0x11), (.zpi, 0x12)]
  | .eor o => List.lookup o.kind [(.imm, 0x49), (.zp, 0x45), (.zpx, 0x55), (.abs, 0x4D), (.absx, 0x5D), (.absy, 0x59), (.izx, 0x41), (.izy, 0x51), (.zpi, 0x52)]
  | .cmp o => List.lookup o.kind [(.imm, 0xC9), (.zp, 0xC5), (.zpx, 0xD5), (.abs, 0xCD), (.absx, 0xDD), (.absy, 0xD9), (.izx, 0xC1), (.izy, 0xD1), (.zpi, 0xD2)]
  | .cpx o => List.lookup o.kind [(.imm, 0xE0), (.zp, 0xE4), (.abs, 0xEC)]
  | .cpy o => List.lookup o.kind [(.imm, 0xC0), (.zp, 0xC4), (.abs, 0xCC)]
  | .bit o => List.lookup o.kind [(.zp, 0x24), (.abs, 0x2C), (.imm, 0x89), (.zpx, 0x34), (.absx, 0x3C)]
  | .tsb m => List.lookup m.kind [(.zp, 0x04), (.abs, 0x0C)]
  | .trb m => List.lookup m.kind [(.zp, 0x14), (.abs, 0x1C)]
  | .rmb0 _ => some 0x07
  | .rmb1 _ => some 0x17
  | .rmb2 _ => some 0x27
  | .rmb3 _ => some 0x37
  | .rmb4 _ => some 0x47
  | .rmb5 _ => some 0x57
  | .rmb6 _ => some 0x67
  | .rmb7 _ => some 0x77
  | .smb0 _ => some 0x87
  | .smb1 _ => some 0x97
  | .smb2 _ => some 0xA7
  | .smb3 _ => some 0xB7
  | .smb4 _ => some 0xC7
  | .smb5 _ => some 0xD7
  | .smb6 _ => some 0xE7
  | .smb7 _ => some 0xF7
  | .bpl _ => some 0x10
  | .bmi _ => some 0x30
  | .bvc _ => some 0x50
  | .bvs _ => some 0x70
  | .bcc _ => some 0x90
  | .bcs _ => some 0xB0
  | .bne _ => some 0xD0
  | .beq _ => some 0xF0
  | .bra _ => some 0x80
  | .bbr0 _ _ => some 0x0F
  | .bbr1 _ _ => some 0x1F
  | .bbr2 _ _ => some 0x2F
  | .bbr3 _ _ => some 0x3F
  | .bbr4 _ _ => some 0x4F
  | .bbr5 _ _ => some 0x5F
  | .bbr6 _ _ => some 0x6F
  | .bbr7 _ _ => some 0x7F
  | .bbs0 _ _ => some 0x8F
  | .bbs1 _ _ => some 0x9F
  | .bbs2 _ _ => some 0xAF
  | .bbs3 _ _ => some 0xBF
  | .bbs4 _ _ => some 0xCF
  | .bbs5 _ _ => some 0xDF
  | .bbs6 _ _ => some 0xEF
  | .bbs7 _ _ => some 0xFF
  | .jmp m => List.lookup m.kind [(.abs, 0x4C), (.ind, 0x6C), (.iax, 0x7C)]
  | .jsr _ => some 0x20
  | .rts => some 0x60
  | .pha => some 0x48
  | .php => some 0x08
  | .pla => some 0x68
  | .plp => some 0x28
  | .phx => some 0xDA
  | .phy => some 0x5A
  | .plx => some 0xFA
  | .ply => some 0x7A
  | .clc => some 0x18
  | .sec => some 0x38
  | .cli => some 0x58
  | .sei => some 0x78
  | .clv => some 0xB8
  | .cld => some 0xD8
  | .sed => some 0xF8
  | .nop => some 0xEA
  | .brk _ => some 0x00
  | .rti => some 0x40
  | .wai => some 0xCB
  | .stp => some 0xDB
  | .illegal op => some op
  | .nopStar op _ => some op

/-- The bytes of an instruction at rising addresses (R110, R111). -/
def encode (i : Instr) : Option (List Byte) := i.opcode?.map (· :: i.operandBytes)

/-- The descriptor of an instruction under a configuration, by its opcode (R114). -/
def Instr.desc? (cfg : Config) (i : Instr) : Option Desc := i.opcode?.map (descOf cfg)

/-- `base_cycles` of R114 (0 for a term that has no encoding, log 14). -/
def Instr.baseCycles (cfg : Config) (i : Instr) : Nat :=
  match i.desc? cfg with
  | some d => d.baseCycles
  | none => 0

/-- `page_penalty` of R114. -/
def Instr.pagePenalty (cfg : Config) (i : Instr) : Bool :=
  match i.desc? cfg with
  | some d => d.pagePenalty
  | none => false

end Sys2Proof
end

