-- ==== Sys2Proof/Machine/State.lean ====
section
/-! DEFINITION. The state of the machine (10_state.md, 20_memory.md R72, R86, R87), the faults of a step
(60_exceptions.md R331), and the state after reset. -/

namespace Sys2Proof.Machine

/-- `dir` of R331. -/
inductive Dir where
  | read
  | write
deriving DecidableEq, Repr

/-- The step faults (R331). A step that raises one abandons its work and enters `run = Faulted(f)` (R335): that is a
next state; the outcome `fault f` is the report of a step asked of a core already in `Faulted(f)` (R336, R370), which
changes nothing. Every constructor is therefore reported by `step` alone, and is safe: the spec gives the stop. -/
inductive Fault where
  /-- "a read/write targets an address with no owning device"; raised by any processor access. Safe. -/
  | unmappedAddress (addr : Addr) (dir : Dir)
  /-- "a write targets a device that rejects writes (e.g., ROM)"; raised by any processor write. Safe. -/
  | readOnlyViolation (addr : Addr)
  /-- a device's access "fails with AccessError" for another reason; raised by any processor access. Safe. -/
  | deviceError (addr : Addr) (dir : Dir)
  /-- "the decoded opcode is not legal for the active behavior variant"; raised by ILLEGAL on NMOS. Safe. -/
  | illegalOpcode (op : Byte) (pc : Addr)
deriving DecidableEq, Repr

/-- The numeric codes of R331 (D31). -/
def Fault.code : Fault → Nat
  | .unmappedAddress _ _ => 1
  | .readOnlyViolation _ => 2
  | .deviceError _ _ => 3
  | .illegalOpcode _ _ => 4

/-- Why the model has no meaning to give. -/
inductive Refusal where
  /-- An instruction of the opcode table without a meaning yet; raised by `exec`'s arm alone. Safe. No arm raises it:
  every instruction has its meaning. -/
  | notModelled (mnemonic : String)
deriving DecidableEq, Repr

/-- `RunState` (R30, R52). -/
inductive RunState where
  | running
  /-- After WAI (R316, R345). -/
  | waiting
  /-- After STP (R317, R346). -/
  | stopped
  /-- After a step or a reset that raised a fault (R335, R336, R381). -/
  | faulted (f : Fault)
deriving DecidableEq, Repr

/-- The processor state (R30). Bit 5 of P is hard-wired to 1 and is no field (R42). -/
structure CpuState where
  /-- The accumulator (R31). -/
  a : Byte
  /-- Index register X (R32). -/
  x : Byte
  /-- Index register Y (R33). -/
  y : Byte
  /-- The stack pointer (R34). -/
  sp : Byte
  /-- The program counter (R35). -/
  pc : Addr
  /-- Negative (R44). -/
  n : Bool
  /-- Overflow (R43). -/
  v : Bool
  /-- The stored Break flag, which no operation reads (R41). -/
  b : Bool
  /-- Decimal (R40). -/
  d : Bool
  /-- Interrupt-disable (R39). -/
  i : Bool
  /-- Zero (R38). -/
  z : Bool
  /-- Carry (R37). -/
  c : Bool
  /-- The instruction register (R47). -/
  ir : Byte
  /-- The cycle counter, unbounded (R49). -/
  cycles : Nat
  /-- The NMI edge latch (R50). -/
  nmiPending : Bool
  /-- The run state (R52). -/
  run : RunState
deriving DecidableEq, Repr

/-- What a device is (R81): a reference RAM (R86), a reference ROM (R87), or a peripheral, whose behaviour is a
parameter of the machine (R11) and whose state is one number (log 8). -/
inductive DeviceKind where
  | ram
  | rom
  | peripheral (model state : Nat)
deriving DecidableEq, Repr

/-- A (range, device) binding of the registry (R72), the range inclusive at both ends. -/
structure Binding where
  /-- The device's identity (R74, D29; log 17). -/
  id : Nat
  start : Addr
  stop : Addr
  kind : DeviceKind
deriving DecidableEq, Repr

/-- The dispatcher's state and the contents of the reference devices. -/
structure Bus where
  /-- The registry, ordered by start address (R72). -/
  registry : List Binding
  /-- The bytes that the reference RAM and ROM devices store (R86, R87), in the canonical form of `Memory.wf`
  (log 5, 11). -/
  mem : List Host.Cell
deriving DecidableEq, Repr

/-- The machine: the configuration it was built with, which no step changes (R53, log 1), the processor, the level of
the maskable interrupt input (R51) and the bus. -/
structure State where
  cfg : Config
  cpu : CpuState
  irqLine : Bool
  bus : Bus
deriving DecidableEq, Repr

/-- The platform of the state after reset: one reference RAM over the whole address space.
DESIGN CHOICE (log 3, unsafe): `DEVICES` is a parameter (R11); this is the platform of 95_test_vectors.md. -/
def Bus.standard : Bus :=
  { registry := [{ id := 0, start := 0x0000#16, stop := 0xFFFF#16, kind := .ram }], mem := [] }

/-- The machine right after reset (R58, R380): `i`, `d` (CMOS), `pc`, `cycles`, `nmiPending` and `run` as the spec
says, `pc` being the two vector bytes of the standard platform.
DESIGN CHOICE (log 4, unsafe): every draw of R58 is zero here. DESIGN CHOICE (log 16, unsafe): the line is low. -/
def State.reset : State :=
  { cfg := Config.standard,
    cpu :=
      { a := 0, x := 0, y := 0, sp := 0, pc := 0x0000#16,
        n := false, v := false, b := false, d := false, i := true, z := false, c := false,
        ir := 0, cycles := 0, nmiPending := false, run := .running },
    irqLine := false,
    bus := Bus.standard }

end Sys2Proof.Machine
end

