-- ==== Sys2Proof/Machine/Flags.lean ====
section
/-! DEFINITION. The flag computation logic: the status byte (10_state.md R36 to R46), SetNZ (00_scope.md R19), the
adder (43_arithmetic.md R190 to R196), compare (47_compare_bittest.md R240) and the one-bit shifts
(45_shift_rotate.md R220 to R223). -/

namespace Sys2Proof.Machine

/-- `PackP(b)` (R45): N V 1 b D I Z C from bit 7 down. -/
def CpuState.packP (cpu : CpuState) (b : Bool) : Byte :=
  BitVec.ofBool cpu.n ++ BitVec.ofBool cpu.v ++ 1#1 ++ BitVec.ofBool b ++
    BitVec.ofBool cpu.d ++ BitVec.ofBool cpu.i ++ BitVec.ofBool cpu.z ++ BitVec.ofBool cpu.c

/-- `UnpackP(v)` (R46): bit 5 is ignored. -/
def CpuState.unpackP (cpu : CpuState) (v : Byte) : CpuState :=
  { cpu with
    n := v.getLsbD 7, v := v.getLsbD 6, b := v.getLsbD 4, d := v.getLsbD 3,
    i := v.getLsbD 2, z := v.getLsbD 1, c := v.getLsbD 0 }

/-- `SetNZ(v)` (R19). -/
def CpuState.setNZ (cpu : CpuState) (v : Byte) : CpuState :=
  { cpu with n := v.getLsbD 7, z := v == 0#8 }

/-- A result byte with the four flags that ADC and SBC write (R57). -/
structure AluResult where
  r : Byte
  n : Bool
  v : Bool
  z : Bool
  c : Bool
deriving DecidableEq, Repr

/-- `AddBinary(a, m, c)` (R190). -/
def addBinary (a m : Byte) (c : Bool) : AluResult :=
  let s : Nat := a.toNat + m.toNat + c.toNat
  let r : Byte := BitVec.ofNat 8 s
  { r := r
    n := r.getLsbD 7
    v := ((a ^^^ r) &&& (m ^^^ r) &&& 0x80#8) != 0#8
    z := r == 0#8
    c := decide (s > 0xFF) }

/-- `SubBinary(a, m, c)` with borrow-in `1 - c` (R191). -/
def subBinary (a m : Byte) (c : Bool) : AluResult :=
  let s : Int := (a.toNat : Int) - (m.toNat : Int) - (1 - (c.toNat : Int))
  let r : Byte := BitVec.ofInt 8 s
  { r := r
    n := r.getLsbD 7
    v := ((a ^^^ m) &&& (a ^^^ r) &&& 0x80#8) != 0#8
    z := r == 0#8
    c := decide (s ≥ 0) }

/-- The low-nibble sum of `AddDecimal`, corrected: `al` and `al2` of R192. -/
def addLowNibble (a m : Byte) (c : Bool) : Nat :=
  let al := (a &&& 0x0F#8).toNat + (m &&& 0x0F#8).toNat + c.toNat
  if al ≥ 0x0A then (al + 0x06) % 16 + 0x10 else al

/-- `AddDecimal(a, m, c)` (R192). -/
def addDecimal (variant : Variant) (a m : Byte) (c : Bool) : AluResult :=
  let al := addLowNibble a m c
  let s0 : Nat := (a &&& 0xF0#8).toNat + (m &&& 0xF0#8).toNat + al
  let s : Nat := if s0 ≥ 0xA0 then s0 + 0x60 else s0
  let r : Byte := BitVec.ofNat 8 s
  let t : Int := (a &&& 0xF0#8).toInt + (m &&& 0xF0#8).toInt + (al : Int)
  let v := decide (t < -128 ∨ t > 127)
  match variant with
  | .nmos =>
    { r := r
      n := (BitVec.ofInt 8 t).getLsbD 7
      v := v
      z := (a.toNat + m.toNat + c.toNat) % 256 == 0
      c := decide (s ≥ 0x100) }
  | .cmos => { r := r, n := r.getLsbD 7, v := v, z := r == 0#8, c := decide (s ≥ 0x100) }

/-- The low-nibble difference of `SubDecimal` before correction: `al` of R193. -/
def subLowNibble (a m : Byte) (c : Bool) : Int :=
  ((a &&& 0x0F#8).toNat : Int) - ((m &&& 0x0F#8).toNat : Int) + (c.toNat : Int) - 1

/-- The accumulator result of `SubDecimal` on NMOS (R193, sequence 3). -/
def subDecimalNmosResult (a m : Byte) (c : Bool) : Byte :=
  let al0 := subLowNibble a m c
  let al : Int := if al0 < 0 then (al0 - 0x06) % 16 - 0x10 else al0
  let s0 : Int := ((a &&& 0xF0#8).toNat : Int) - ((m &&& 0xF0#8).toNat : Int) + al
  let s : Int := if s0 < 0 then s0 - 0x60 else s0
  BitVec.ofInt 8 s

/-- The accumulator result of `SubDecimal` on CMOS (R193, sequence 4). -/
def subDecimalCmosResult (a m : Byte) (c : Bool) : Byte :=
  let al := subLowNibble a m c
  let s0 : Int := (a.toNat : Int) - (m.toNat : Int) + (c.toNat : Int) - 1
  let s1 : Int := if s0 < 0 then s0 - 0x60 else s0
  let s : Int := if al < 0 then s1 - 0x06 else s1
  BitVec.ofInt 8 s

/-- `SubDecimal(a, m, c)` (R193): C and V, and on NMOS N and Z, are those of `SubBinary`. -/
def subDecimal (variant : Variant) (a m : Byte) (c : Bool) : AluResult :=
  match variant with
  | .nmos => { subBinary a m c with r := subDecimalNmosResult a m c }
  | .cmos =>
    let r := subDecimalCmosResult a m c
    { subBinary a m c with r := r, n := r.getLsbD 7, z := r == 0#8 }

/-- `decimal_active` (R196). -/
def decimalActive (cfg : Config) (d : Bool) : Bool := d && cfg.hasDecimal

/-- The adder that ADC uses (R194). -/
def adcResult (cfg : Config) (d : Bool) (a m : Byte) (c : Bool) : AluResult :=
  if decimalActive cfg d then addDecimal cfg.variant a m c else addBinary a m c

/-- The adder that SBC uses (R195). -/
def sbcResult (cfg : Config) (d : Bool) (a m : Byte) (c : Bool) : AluResult :=
  if decimalActive cfg d then subDecimal cfg.variant a m c else subBinary a m c

/-- A takes the result, and N, V, Z, C the flags of the adder (R194, R195). -/
def CpuState.setAlu (cpu : CpuState) (o : AluResult) : CpuState :=
  { cpu with a := o.r, n := o.n, v := o.v, z := o.z, c := o.c }

/-- `Compare(r, m)` (R240): binary whatever D is, V is not written. -/
def CpuState.compare (cpu : CpuState) (r m : Byte) : CpuState :=
  { cpu.setNZ (r - m) with c := decide (r.toNat ≥ m.toNat) }

/-- The result of a one-bit shift or rotate and the bit shifted out (R220 to R223). -/
structure ShiftResult where
  r : Byte
  c : Bool
deriving DecidableEq, Repr

def shiftAsl (m : Byte) : ShiftResult := { r := m <<< 1, c := m.getLsbD 7 }

def shiftLsr (m : Byte) : ShiftResult := { r := m >>> 1, c := m.getLsbD 0 }

def shiftRol (m : Byte) (cIn : Bool) : ShiftResult :=
  { r := (m <<< 1) ||| BitVec.setWidth 8 (BitVec.ofBool cIn), c := m.getLsbD 7 }

def shiftRor (m : Byte) (cIn : Bool) : ShiftResult :=
  { r := (m >>> 1) ||| (BitVec.setWidth 8 (BitVec.ofBool cIn) <<< 7), c := m.getLsbD 0 }

/-- N and Z from the result, C from the bit shifted out (R220 to R223). -/
def CpuState.setShift (cpu : CpuState) (o : ShiftResult) : CpuState :=
  { cpu.setNZ o.r with c := o.c }

/-- Z from `A & M` (R244 to R246). -/
def CpuState.setZMask (cpu : CpuState) (m : Byte) : CpuState :=
  { cpu with z := (cpu.a &&& m) == 0#8 }

end Sys2Proof.Machine
end

