-- ==== Sys2Proof/Machine/Ops.lean ====
section
/-! DEFINITION. The named operations: memory and the bus (20_memory.md), the stack (00_scope.md R18), abandoning a step
on a fault (60_exceptions.md R335), the entry to a handler (R350, 49_stack_flags_system.md R314) and the return from it
(R315), and running the body of an instruction (40_addressing.md R165). -/

namespace Sys2Proof.Machine

/-! ## Stored bytes -/

/-- What a byte of a reference device that nothing has written reads as.
DESIGN CHOICE (log 5, unsafe): the spec leaves it a draw (R86); every draw is some list of cells. -/
def Memory.unlisted : Byte := 0x00#8

/-- The stored byte at an address. -/
def Memory.read : List Host.Cell → Nat → Byte
  | [], _ => Memory.unlisted
  | (k, v) :: m, a => if a = k then v else Memory.read m a

/-- Stores a byte and keeps the canonical form. -/
def Memory.write : List Host.Cell → Nat → Byte → List Host.Cell
  | [], a, v => if v = Memory.unlisted then [] else [(a, v)]
  | (k, w) :: m, a, v =>
    if a < k then (if v = Memory.unlisted then (k, w) :: m else (a, v) :: (k, w) :: m)
    else if a = k then (if v = Memory.unlisted then m else (a, v) :: m)
    else (k, w) :: Memory.write m a v

/-- The canonical form above a lower bound: addresses rise strictly, lie in the address space, and no byte equals what
an unlisted address reads as. -/
def Memory.wfFrom : Nat → List Host.Cell → Bool
  | _, [] => true
  | lo, (k, v) :: m => decide (lo ≤ k) && decide (k < 65536) && decide (v ≠ Memory.unlisted) && Memory.wfFrom (k + 1) m

/-- The canonical form of stored bytes. -/
def Memory.wf (m : List Host.Cell) : Bool := Memory.wfFrom 0 m

/-- The cells outside an inclusive range. -/
def Memory.outside (m : List Host.Cell) (lo hi : Nat) : List Host.Cell :=
  m.filter fun cell => !(decide (lo ≤ cell.1) && decide (cell.1 ≤ hi))

/-- The cells inside an inclusive range. -/
def Memory.inside (m : List Host.Cell) (lo hi : Nat) : List Host.Cell :=
  m.filter fun cell => decide (lo ≤ cell.1) && decide (cell.1 ≤ hi)

/-- Stores the cells of a list one after the other. -/
def Memory.writeAll (m : List Host.Cell) : List Host.Cell → List Host.Cell
  | [] => m
  | (k, v) :: cells => Memory.writeAll (Memory.write m k v) cells

/-! ## The dispatcher -/

/-- Containment in the inclusive range (R72, R75). -/
def Binding.owns (d : Binding) (addr : Addr) : Bool :=
  decide (d.start.toNat ≤ addr.toNat) && decide (addr.toNat ≤ d.stop.toNat)

/-- The registry invariant of R72 above a lower bound: ranges in order, without overlap, inside the window. -/
def registryWfFrom (winHi : Nat) : Nat → List Binding → Bool
  | _, [] => true
  | lo, d :: ds =>
    decide (lo ≤ d.start.toNat) && decide (d.start.toNat ≤ d.stop.toNat) && decide (d.stop.toNat ≤ winHi) &&
      registryWfFrom winHi (d.stop.toNat + 1) ds

/-- The invariant of the registry under a configuration (R71, R72). -/
def registryWf (cfg : Config) (registry : List Binding) : Bool :=
  registryWfFrom cfg.winHi.toNat cfg.winLo.toNat registry

/-- `lookup(addr)` (R75). -/
def Bus.lookup (b : Bus) (addr : Addr) : Option Binding := b.registry.find? (·.owns addr)

/-- The new state of the peripheral that owns an address. -/
def setDeviceState (addr : Addr) (next : Nat) : List Binding → List Binding
  | [] => []
  | d :: ds =>
    if d.owns addr then
      match d.kind with
      | .ram | .rom => d :: ds
      | .peripheral model _ => { d with kind := .peripheral model next } :: ds
    else d :: setDeviceState addr next ds

def Bus.setDevice (b : Bus) (addr : Addr) (next : Nat) : Bus :=
  { b with registry := setDeviceState addr next b.registry }

/-- A bus operation's answer: a value, or the fault it raised; the bus as the accesses made so far left it (R96, R335). -/
inductive BusRes (α : Type) where
  | ok (v : α) (b : Bus)
  | raised (f : Fault) (b : Bus)
deriving DecidableEq, Repr

/-- Sequencing: a later access is not made if an earlier one raised (R96, R333). -/
def BusRes.andThen {α β : Type} (r : BusRes α) (k : α → Bus → BusRes β) : BusRes β :=
  match r with
  | .ok v b => k v b
  | .raised f b => .raised f b

/-- The bus after the operation, whether it raised or not. -/
def BusRes.bus {α : Type} : BusRes α → Bus
  | .ok _ b => b
  | .raised _ b => b

/-- A peripheral's read under R78 and R81, by origin: the processor gets the device's reply; an inspector read may be
refused for its mode, else it returns what a processor read at that moment would, and it keeps the state.
DEDUCED (log 20): an inspector read returns no byte where the processor read would fail. -/
def peripheralRead (model state : Nat) (addr : Addr) : Bool → DeviceReadReply
  | true => Config.deviceRead model state addr true
  | false =>
    { next := state,
      value := (Config.deviceRead model state addr false).value.bind fun _ =>
        (Config.deviceRead model state addr true).value }

/-- `read(addr, isProcessorAccess)` (R76). -/
def Bus.read (b : Bus) (addr : Addr) (isProcessorAccess : Bool) : BusRes Byte :=
  match b.lookup addr with
  | none => .raised (.unmappedAddress addr .read) b
  | some d =>
    match d.kind with
    | .ram | .rom => .ok (Memory.read b.mem addr.toNat) b
    | .peripheral model state =>
      let reply := peripheralRead model state addr isProcessorAccess
      let b' := b.setDevice addr reply.next
      match reply.value with
      | some v => .ok v b'
      | none => .raised (.deviceError addr .read) b'

/-- `write(addr, value, isProcessorAccess)` (R77); the reference RAM takes every write (R86), the reference ROM only an
inspector's (R87). -/
def Bus.write (b : Bus) (addr : Addr) (value : Byte) (isProcessorAccess : Bool) : BusRes Unit :=
  match b.lookup addr with
  | none => .raised (.unmappedAddress addr .write) b
  | some d =>
    match d.kind with
    | .ram => .ok () { b with mem := Memory.write b.mem addr.toNat value }
    | .rom =>
      if isProcessorAccess then .raised (.readOnlyViolation addr) b
      else .ok () { b with mem := Memory.write b.mem addr.toNat value }
    | .peripheral model state =>
      let reply := Config.deviceWrite model state addr value isProcessorAccess
      let b' := b.setDevice addr reply.next
      match reply.result with
      | .stored => .ok () b'
      | .readOnly => .raised (.readOnlyViolation addr) b'
      | .failed => .raised (.deviceError addr .write) b'

/-- `MemRead(addr, 1)`: the processor's read (R16, R79). -/
def memRead (addr : Addr) (b : Bus) : BusRes Byte := b.read addr true

/-- `MemWrite(addr, 1, v)`: the processor's write (R16, R79). -/
def memWrite (addr : Addr) (v : Byte) (b : Bus) : BusRes Unit := b.write addr v true

/-- Two reads, the byte at `lo` first, as a 16-bit pointer (R88, R164). -/
def readPointer (lo hi : Addr) (b : Bus) : BusRes Addr :=
  (memRead lo b).andThen fun l b => (memRead hi b).andThen fun h b => .ok (word h l) b

/-- The byte that a reference device stores at an address: `none` where no reference device owns it. -/
def Bus.peek (b : Bus) (addr : Addr) : Option Byte :=
  match b.lookup addr with
  | none => none
  | some d =>
    match d.kind with
    | .ram | .rom => some (Memory.read b.mem addr.toNat)
    | .peripheral _ _ => none

/-! ## The stack -/

/-- The stack address of SP: page 0x01 (R18, R34). -/
def stackAddr (sp : Byte) : Addr := word 0x01#8 sp

/-- `Push(v)`: the write, then the new SP (R18). -/
def push (v sp : Byte) (b : Bus) : BusRes Byte :=
  (memWrite (stackAddr sp) v b).andThen fun _ b => .ok (sp - 1#8) b

/-- `Pull()`: the new SP, then the read; the answer is the byte with the new SP (R18). -/
def pull (sp : Byte) (b : Bus) : BusRes (Byte × Byte) :=
  (memRead (stackAddr (sp + 1#8)) b).andThen fun v b => .ok (v, sp + 1#8) b

/-! ## Faults -/

/-- A raised fault abandons the step: CpuState as it was at the start of the step, but for `run`; the bus accesses made
stay made (R335). -/
def State.abandon (s : State) (f : Fault) (b : Bus) : State :=
  { s with cpu := { s.cpu with run := .faulted f }, bus := b }

/-! ## Entry to a handler and return from it -/

/-- The vectors (R92, R353). -/
def nmiVector : Addr := 0xFFFA#16
def resetVector : Addr := 0xFFFC#16
def irqVector : Addr := 0xFFFE#16

/-- The push and vector sequence that BRK, IRQ entry and NMI entry share (R314, R350): PC high byte first, then P with
the given Break bit; I is set, and on CMOS D cleared; PC is read from the vector. -/
def enterHandler (cfg : Config) (brk : Bool) (vector : Addr) (cpu : CpuState) (b : Bus) : BusRes CpuState :=
  (push (hi8 cpu.pc) cpu.sp b).andThen fun sp b =>
  (push (lo8 cpu.pc) sp b).andThen fun sp b =>
  (push (cpu.packP brk) sp b).andThen fun sp b =>
  (readPointer vector (vector + 1#16) b).andThen fun pc b =>
  .ok { cpu with sp := sp, i := true, d := if cfg.isCmos then false else cpu.d, pc := pc } b

/-- The return from a handler (R315): P, then PC low and high; nothing is added to the address. -/
def leaveHandler (cpu : CpuState) (b : Bus) : BusRes CpuState :=
  (pull cpu.sp b).andThen fun p b =>
  (pull p.2 b).andThen fun lo b =>
  (pull lo.2 b).andThen fun hi b =>
  .ok { cpu.unpackP p.1 with sp := hi.2, pc := word hi.1 lo.1 } b

/-- The interrupt sources (R340). -/
inductive Source where
  | nmi
  | irq
deriving DecidableEq, Repr

def Source.vector : Source → Addr
  | .nmi => nmiVector
  | .irq => irqVector

/-- NMI entry clears the latch as its first action (R351); IRQ entry leaves it. -/
def Source.latchAfter : Source → Bool → Bool
  | .nmi, _ => false
  | .irq, pending => pending

/-- Interrupt entry (R350): 7 cycles (R352), a fault in it rolls back the latch too (R351, R335). A wake from WAI enters
in the same step (R345). -/
def takeInterrupt (src : Source) (s : State) : State :=
  match enterHandler s.cfg false src.vector
      { s.cpu with nmiPending := src.latchAfter s.cpu.nmiPending, run := .running } s.bus with
  | .ok cpu b => { s with cpu := { cpu with cycles := cpu.cycles + 7 }, bus := b }
  | .raised f b => s.abandon f b

/-! ## Running an instruction -/

/-- CpuState after the fetch of an instruction: PC past its bytes (R17, R35), IR its opcode (R47, R114). -/
def CpuState.fetched (cpu : CpuState) (i : Instr) : CpuState :=
  { cpu with pc := cpu.pc + BitVec.ofNat 16 i.length, ir := i.opcode?.getD cpu.ir }

/-- The processor part of an instruction's effect, with the cycles beyond its base count (R165). -/
structure Effect where
  cpu : CpuState
  extra : Nat := 0
deriving DecidableEq, Repr

/-- Runs the body of a fetched instruction: its effect and its cycle cost (R165), or the abandoned step (R335). -/
def runInstr (i : Instr) (s : State) (body : CpuState → Bus → BusRes Effect) :
    Host.Outcome State Fault Refusal :=
  match body (s.cpu.fetched i) s.bus with
  | .ok e b =>
    .next { s with cpu := { e.cpu with cycles := e.cpu.cycles + (i.baseCycles s.cfg + e.extra) }, bus := b }
  | .raised f b => .next (s.abandon f b)

/-- An instruction that touches registers and flags only (R141, class "none"). -/
def runRegister (i : Instr) (s : State) (f : CpuState → CpuState) : Host.Outcome State Fault Refusal :=
  runInstr i s fun cpu b => .ok { cpu := f cpu } b

end Sys2Proof.Machine
end

