-- ==== Sys2Proof/Machine/Operands.lean ====
section
/-! DEFINITION. The addressing-mode resolver (40_addressing.md R140 to R164), and the shapes of the access classes of
R141: read, write, read-modify-write. -/

namespace Sys2Proof.Machine

/-- The resolver's output (R140). -/
structure Resolved where
  ea : Addr
  crossed : Bool := false
deriving DecidableEq, Repr

/-- The address of the second byte of a JMP-indirect pointer (R151): NMOS stays in the page, CMOS does not. -/
def indirectHigh (cfg : Config) (ptr : Addr) : Addr :=
  match cfg.variant with
  | .nmos => word (hi8 ptr) (lo8 ptr + 1#8)
  | .cmos => ptr + 1#16

/-- An indexed absolute address with its page-cross indication (R149, R150, R153). -/
def indexed (base : Addr) (index : Byte) : Resolved :=
  { ea := base + zext index, crossed := crosses base (base + zext index) }

/-- The effective address of a mode (R145 to R155). -/
def resolve (cfg : Config) (cpu : CpuState) (m : MemMode) (b : Bus) : BusRes Resolved :=
  match m with
  | .zp a => .ok { ea := zext a } b
  | .zpx a => .ok { ea := zext (a + cpu.x) } b
  | .zpy a => .ok { ea := zext (a + cpu.y) } b
  | .abs w => .ok { ea := w } b
  | .absx w => .ok (indexed w cpu.x) b
  | .absy w => .ok (indexed w cpu.y) b
  | .ind w => (readPointer w (indirectHigh cfg w) b).andThen fun p b => .ok { ea := p } b
  | .izx a => (readPointer (zext (a + cpu.x)) (zext (a + cpu.x + 1#8)) b).andThen fun p b => .ok { ea := p } b
  | .izy a => (readPointer (zext a) (zext (a + 1#8)) b).andThen fun p b => .ok (indexed p cpu.y) b
  | .zpi a => (readPointer (zext a) (zext (a + 1#8)) b).andThen fun p b => .ok { ea := p } b
  | .iax w =>
    (readPointer (w + zext cpu.x) (w + zext cpu.x + 1#16) b).andThen fun p b => .ok { ea := p } b

/-- An operand byte with the page-cross indication of its mode. -/
structure OperandValue where
  value : Byte
  crossed : Bool := false
deriving DecidableEq, Repr

/-- `Operand()` of a read-class instruction (R163). -/
def operandValue (cfg : Config) (cpu : CpuState) (o : ReadOperand) (b : Bus) : BusRes OperandValue :=
  match o with
  | .imm v => .ok { value := v } b
  | .mem m =>
    (resolve cfg cpu m b).andThen fun r b =>
    (memRead r.ea b).andThen fun v b => .ok { value := v, crossed := r.crossed } b

/-- The page-cross cycle (R160, R165). -/
def pageExtra (cfg : Config) (i : Instr) (crossed : Bool) : Nat :=
  if i.pagePenalty cfg && crossed then 1 else 0

/-- A read-class instruction (R141): `f` is what it does with its operand byte, `extra` any cycle beyond R160. -/
def runRead (i : Instr) (o : ReadOperand) (s : State) (f : Byte → CpuState → CpuState) (extra : Nat := 0) :
    Host.Outcome State Fault Refusal :=
  runInstr i s fun cpu b =>
    (operandValue s.cfg cpu o b).andThen fun r b =>
    .ok { cpu := f r.value cpu, extra := pageExtra s.cfg i r.crossed + extra } b

/-- A write-class instruction (R141): one write, no read of the address, no variable penalty (R161). -/
def runStore (i : Instr) (m : MemMode) (s : State) (f : CpuState → Byte) : Host.Outcome State Fault Refusal :=
  runInstr i s fun cpu b =>
    (resolve s.cfg cpu m b).andThen fun r b =>
    (memWrite r.ea (f cpu) b).andThen fun _ b => .ok { cpu := cpu } b

/-- A read-modify-write of a memory byte (R141): one read, then one write of the same address. `f` gives the byte
written, `g` what happens to the registers, both from the byte read. -/
def runModify (i : Instr) (m : MemMode) (s : State) (f : Byte → CpuState → Byte) (g : Byte → CpuState → CpuState) :
    Host.Outcome State Fault Refusal :=
  runInstr i s fun cpu b =>
    (resolve s.cfg cpu m b).andThen fun r b =>
    (memRead r.ea b).andThen fun v b =>
    (memWrite r.ea (f v cpu) b).andThen fun _ b =>
    .ok { cpu := g v cpu, extra := pageExtra s.cfg i r.crossed } b

/-- A shift, rotate, INC or DEC (R141, R143): on the accumulator without a bus access, or on a memory byte. -/
def runRmw (i : Instr) (o : RmwOperand) (s : State) (f : Byte → CpuState → Byte) (g : Byte → CpuState → CpuState) :
    Host.Outcome State Fault Refusal :=
  match o with
  | .acc => runRegister i s fun cpu => { g cpu.a cpu with a := f cpu.a cpu }
  | .mem m => runModify i m s f g

end Sys2Proof.Machine
end

