-- ==== Sys2Proof/Machine/Arithmetic.lean ====
section
/-! DEFINITION. ADC and SBC (43_arithmetic.md). -/

namespace Sys2Proof.Machine

/-- The cycle that decimal ADC and SBC take on CMOS (R165, R197); D is its value before the instruction. -/
def decimalExtra (s : State) : Nat := if s.cfg.isCmos && decimalActive s.cfg s.cpu.d then 1 else 0

/-- ADC in binary or decimal mode (R194, R196). -/
def execAdc (o : ReadOperand) (s : State) : Host.Outcome State Fault Refusal :=
  runRead (.adc o) o s (fun v cpu => cpu.setAlu (adcResult s.cfg cpu.d cpu.a v cpu.c)) (decimalExtra s)

/-- SBC in binary or decimal mode (R195, R196). -/
def execSbc (o : ReadOperand) (s : State) : Host.Outcome State Fault Refusal :=
  runRead (.sbc o) o s (fun v cpu => cpu.setAlu (sbcResult s.cfg cpu.d cpu.a v cpu.c)) (decimalExtra s)

end Sys2Proof.Machine
end

