-- ==== Sys2Proof/Machine/CompareBit.lean ====
section
/-! DEFINITION. Compares, BIT, TSB, TRB, RMB and SMB (47_compare_bittest.md). -/

namespace Sys2Proof.Machine

/-- CMP: `Compare(A, M)` (R241). -/
def execCmp (o : ReadOperand) (s : State) : Host.Outcome State Fault Refusal :=
  runRead (.cmp o) o s fun v cpu => cpu.compare cpu.a v

/-- CPX: `Compare(X, M)` (R242). -/
def execCpx (o : ReadOperand) (s : State) : Host.Outcome State Fault Refusal :=
  runRead (.cpx o) o s fun v cpu => cpu.compare cpu.x v

/-- CPY: `Compare(Y, M)` (R243). -/
def execCpy (o : ReadOperand) (s : State) : Host.Outcome State Fault Refusal :=
  runRead (.cpy o) o s fun v cpu => cpu.compare cpu.y v

/-- The flags of BIT (R244): Z from `A & M`; N and V are bits 7 and 6 of M in the memory forms only. -/
def CpuState.bitTest (cpu : CpuState) (o : ReadOperand) (v : Byte) : CpuState :=
  match o with
  | .imm _ => cpu.setZMask v
  | .mem _ => { cpu.setZMask v with n := v.getLsbD 7, v := v.getLsbD 6 }

/-- BIT (R244). -/
def execBit (o : ReadOperand) (s : State) : Host.Outcome State Fault Refusal :=
  runRead (.bit o) o s fun v cpu => cpu.bitTest o v

/-- TSB: Z from the byte read, `M | A` written (R245). -/
def execTsb (m : MemMode) (s : State) : Host.Outcome State Fault Refusal :=
  runModify (.tsb m) m s (fun v cpu => v ||| cpu.a) (fun v cpu => cpu.setZMask v)

/-- TRB: Z from the byte read, `M & (A ^ 0xFF)` written (R246). -/
def execTrb (m : MemMode) (s : State) : Host.Outcome State Fault Refusal :=
  runModify (.trb m) m s (fun v cpu => v &&& (cpu.a ^^^ 0xFF#8)) (fun v cpu => cpu.setZMask v)

/-- The mask of bit `b`. -/
def bitMask (b : Nat) : Byte := 1#8 <<< b

/-- `RMBb` (R247): no flags. -/
def resetMemoryBit (i : Instr) (b : Nat) (zp : Byte) (s : State) : Host.Outcome State Fault Refusal :=
  runModify i (.zp zp) s (fun v _ => v &&& (bitMask b ^^^ 0xFF#8)) (fun _ cpu => cpu)

/-- `SMBb` (R248): no flags. -/
def setMemoryBit (i : Instr) (b : Nat) (zp : Byte) (s : State) : Host.Outcome State Fault Refusal :=
  runModify i (.zp zp) s (fun v _ => v ||| bitMask b) (fun _ cpu => cpu)

/-- RMB0 (R247). -/
def execRmb0 (zp : Byte) (s : State) : Host.Outcome State Fault Refusal :=
  resetMemoryBit (.rmb0 zp) 0 zp s

/-- RMB1 (R247). -/
def execRmb1 (zp : Byte) (s : State) : Host.Outcome State Fault Refusal :=
  resetMemoryBit (.rmb1 zp) 1 zp s

/-- RMB2 (R247). -/
def execRmb2 (zp : Byte) (s : State) : Host.Outcome State Fault Refusal :=
  resetMemoryBit (.rmb2 zp) 2 zp s

/-- RMB3 (R247). -/
def execRmb3 (zp : Byte) (s : State) : Host.Outcome State Fault Refusal :=
  resetMemoryBit (.rmb3 zp) 3 zp s

/-- RMB4 (R247). -/
def execRmb4 (zp : Byte) (s : State) : Host.Outcome State Fault Refusal :=
  resetMemoryBit (.rmb4 zp) 4 zp s

/-- RMB5 (R247). -/
def execRmb5 (zp : Byte) (s : State) : Host.Outcome State Fault Refusal :=
  resetMemoryBit (.rmb5 zp) 5 zp s

/-- RMB6 (R247). -/
def execRmb6 (zp : Byte) (s : State) : Host.Outcome State Fault Refusal :=
  resetMemoryBit (.rmb6 zp) 6 zp s

/-- RMB7 (R247). -/
def execRmb7 (zp : Byte) (s : State) : Host.Outcome State Fault Refusal :=
  resetMemoryBit (.rmb7 zp) 7 zp s

/-- SMB0 (R248). -/
def execSmb0 (zp : Byte) (s : State) : Host.Outcome State Fault Refusal :=
  setMemoryBit (.smb0 zp) 0 zp s

/-- SMB1 (R248). -/
def execSmb1 (zp : Byte) (s : State) : Host.Outcome State Fault Refusal :=
  setMemoryBit (.smb1 zp) 1 zp s

/-- SMB2 (R248). -/
def execSmb2 (zp : Byte) (s : State) : Host.Outcome State Fault Refusal :=
  setMemoryBit (.smb2 zp) 2 zp s

/-- SMB3 (R248). -/
def execSmb3 (zp : Byte) (s : State) : Host.Outcome State Fault Refusal :=
  setMemoryBit (.smb3 zp) 3 zp s

/-- SMB4 (R248). -/
def execSmb4 (zp : Byte) (s : State) : Host.Outcome State Fault Refusal :=
  setMemoryBit (.smb4 zp) 4 zp s

/-- SMB5 (R248). -/
def execSmb5 (zp : Byte) (s : State) : Host.Outcome State Fault Refusal :=
  setMemoryBit (.smb5 zp) 5 zp s

/-- SMB6 (R248). -/
def execSmb6 (zp : Byte) (s : State) : Host.Outcome State Fault Refusal :=
  setMemoryBit (.smb6 zp) 6 zp s

/-- SMB7 (R248). -/
def execSmb7 (zp : Byte) (s : State) : Host.Outcome State Fault Refusal :=
  setMemoryBit (.smb7 zp) 7 zp s

end Sys2Proof.Machine
end

