-- ==== Sys2Proof/Machine/Control.lean ====
section
/-! DEFINITION. Branches, jumps and subroutines (48_control.md). -/

namespace Sys2Proof.Machine

/-- A branch to `target` from the address of the next instruction, which `cpu.pc` holds (R260): the extra cycles of
R162. -/
def branchIf (cond : Bool) (off : Byte) (cpu : CpuState) : Effect :=
  let target := cpu.pc + sext off
  if cond then { cpu := { cpu with pc := target }, extra := if crosses target cpu.pc then 2 else 1 }
  else { cpu := cpu, extra := 0 }

/-- A relative branch on a condition of the flags (R260). -/
def runBranch (i : Instr) (cond : CpuState → Bool) (off : Byte) (s : State) : Host.Outcome State Fault Refusal :=
  runInstr i s fun cpu b => .ok (branchIf (cond cpu) off cpu) b

/-- BPL: taken when N = 0 (R262). -/
def execBpl (off : Byte) (s : State) : Host.Outcome State Fault Refusal :=
  runBranch (.bpl off) (fun cpu => !cpu.n) off s

/-- BMI: taken when N = 1 (R263). -/
def execBmi (off : Byte) (s : State) : Host.Outcome State Fault Refusal :=
  runBranch (.bmi off) (fun cpu => cpu.n) off s

/-- BVC: taken when V = 0 (R264). -/
def execBvc (off : Byte) (s : State) : Host.Outcome State Fault Refusal :=
  runBranch (.bvc off) (fun cpu => !cpu.v) off s

/-- BVS: taken when V = 1 (R265). -/
def execBvs (off : Byte) (s : State) : Host.Outcome State Fault Refusal :=
  runBranch (.bvs off) (fun cpu => cpu.v) off s

/-- BCC: taken when C = 0 (R266). -/
def execBcc (off : Byte) (s : State) : Host.Outcome State Fault Refusal :=
  runBranch (.bcc off) (fun cpu => !cpu.c) off s

/-- BCS: taken when C = 1 (R267). -/
def execBcs (off : Byte) (s : State) : Host.Outcome State Fault Refusal :=
  runBranch (.bcs off) (fun cpu => cpu.c) off s

/-- BNE: taken when Z = 0 (R268). -/
def execBne (off : Byte) (s : State) : Host.Outcome State Fault Refusal :=
  runBranch (.bne off) (fun cpu => !cpu.z) off s

/-- BEQ: taken when Z = 1 (R269). -/
def execBeq (off : Byte) (s : State) : Host.Outcome State Fault Refusal :=
  runBranch (.beq off) (fun cpu => cpu.z) off s

/-- BRA: always taken (R270). -/
def execBra (off : Byte) (s : State) : Host.Outcome State Fault Refusal :=
  runBranch (.bra off) (fun _ => true) off s

/-- A branch on bit `b` of a zero-page byte being `set` (R271, R272). -/
def runBitBranch (i : Instr) (b : Nat) (set : Bool) (zp off : Byte) (s : State) : Host.Outcome State Fault Refusal :=
  runInstr i s fun cpu bus =>
    (memRead (zext zp) bus).andThen fun v bus => .ok (branchIf (v.getLsbD b == set) off cpu) bus

/-- BBR0 (R271). -/
def execBbr0 (zp off : Byte) (s : State) : Host.Outcome State Fault Refusal :=
  runBitBranch (.bbr0 zp off) 0 false zp off s

/-- BBR1 (R271). -/
def execBbr1 (zp off : Byte) (s : State) : Host.Outcome State Fault Refusal :=
  runBitBranch (.bbr1 zp off) 1 false zp off s

/-- BBR2 (R271). -/
def execBbr2 (zp off : Byte) (s : State) : Host.Outcome State Fault Refusal :=
  runBitBranch (.bbr2 zp off) 2 false zp off s

/-- BBR3 (R271). -/
def execBbr3 (zp off : Byte) (s : State) : Host.Outcome State Fault Refusal :=
  runBitBranch (.bbr3 zp off) 3 false zp off s

/-- BBR4 (R271). -/
def execBbr4 (zp off : Byte) (s : State) : Host.Outcome State Fault Refusal :=
  runBitBranch (.bbr4 zp off) 4 false zp off s

/-- BBR5 (R271). -/
def execBbr5 (zp off : Byte) (s : State) : Host.Outcome State Fault Refusal :=
  runBitBranch (.bbr5 zp off) 5 false zp off s

/-- BBR6 (R271). -/
def execBbr6 (zp off : Byte) (s : State) : Host.Outcome State Fault Refusal :=
  runBitBranch (.bbr6 zp off) 6 false zp off s

/-- BBR7 (R271). -/
def execBbr7 (zp off : Byte) (s : State) : Host.Outcome State Fault Refusal :=
  runBitBranch (.bbr7 zp off) 7 false zp off s

/-- BBS0 (R272). -/
def execBbs0 (zp off : Byte) (s : State) : Host.Outcome State Fault Refusal :=
  runBitBranch (.bbs0 zp off) 0 true zp off s

/-- BBS1 (R272). -/
def execBbs1 (zp off : Byte) (s : State) : Host.Outcome State Fault Refusal :=
  runBitBranch (.bbs1 zp off) 1 true zp off s

/-- BBS2 (R272). -/
def execBbs2 (zp off : Byte) (s : State) : Host.Outcome State Fault Refusal :=
  runBitBranch (.bbs2 zp off) 2 true zp off s

/-- BBS3 (R272). -/
def execBbs3 (zp off : Byte) (s : State) : Host.Outcome State Fault Refusal :=
  runBitBranch (.bbs3 zp off) 3 true zp off s

/-- BBS4 (R272). -/
def execBbs4 (zp off : Byte) (s : State) : Host.Outcome State Fault Refusal :=
  runBitBranch (.bbs4 zp off) 4 true zp off s

/-- BBS5 (R272). -/
def execBbs5 (zp off : Byte) (s : State) : Host.Outcome State Fault Refusal :=
  runBitBranch (.bbs5 zp off) 5 true zp off s

/-- BBS6 (R272). -/
def execBbs6 (zp off : Byte) (s : State) : Host.Outcome State Fault Refusal :=
  runBitBranch (.bbs6 zp off) 6 true zp off s

/-- BBS7 (R272). -/
def execBbs7 (zp off : Byte) (s : State) : Host.Outcome State Fault Refusal :=
  runBitBranch (.bbs7 zp off) 7 true zp off s

/-- JMP: `PC <- EA`, no access at the target (R275). -/
def execJmp (m : MemMode) (s : State) : Host.Outcome State Fault Refusal :=
  runInstr (.jmp m) s fun cpu b =>
    (resolve s.cfg cpu m b).andThen fun r b => .ok { cpu := { cpu with pc := r.ea } } b

/-- JSR: pushes `PC_start + 2`, high byte first (R277). -/
def execJsr (target : Addr) (s : State) : Host.Outcome State Fault Refusal :=
  runInstr (.jsr target) s fun cpu b =>
    (push (hi8 (s.cpu.pc + 2#16)) cpu.sp b).andThen fun sp b =>
    (push (lo8 (s.cpu.pc + 2#16)) sp b).andThen fun sp b => .ok { cpu := { cpu with sp := sp, pc := target } } b

/-- RTS: pulls the address, low byte first, and adds 1 (R278). -/
def execRts (s : State) : Host.Outcome State Fault Refusal :=
  runInstr .rts s fun cpu b =>
    (pull cpu.sp b).andThen fun lo b =>
    (pull lo.2 b).andThen fun hi b => .ok { cpu := { cpu with sp := hi.2, pc := word hi.1 lo.1 + 1#16 } } b

end Sys2Proof.Machine
end

