-- ==== Sys2Proof/Machine/IncDec.lean ====
section
/-! DEFINITION. Increments and decrements (44_incdec.md). -/

namespace Sys2Proof.Machine

/-- INC of memory, or of A on CMOS: binary, N and Z only (R210). -/
def execInc (o : RmwOperand) (s : State) : Host.Outcome State Fault Refusal :=
  runRmw (.inc o) o s (fun v _ => v + 1#8) (fun v cpu => cpu.setNZ (v + 1#8))

/-- DEC of memory, or of A on CMOS: binary, N and Z only (R211). -/
def execDec (o : RmwOperand) (s : State) : Host.Outcome State Fault Refusal :=
  runRmw (.dec o) o s (fun v _ => v - 1#8) (fun v cpu => cpu.setNZ (v - 1#8))

/-- INX: `X <- (X + 1) mod 2^8; SetNZ(X)` (R212). -/
def execInx (s : State) : Host.Outcome State Fault Refusal :=
  runRegister .inx s fun cpu => { cpu.setNZ (cpu.x + 1#8) with x := cpu.x + 1#8 }

/-- INY: `Y <- (Y + 1) mod 2^8; SetNZ(Y)` (R213). -/
def execIny (s : State) : Host.Outcome State Fault Refusal :=
  runRegister .iny s fun cpu => { cpu.setNZ (cpu.y + 1#8) with y := cpu.y + 1#8 }

/-- DEX: `X <- (X - 1) mod 2^8; SetNZ(X)` (R214). -/
def execDex (s : State) : Host.Outcome State Fault Refusal :=
  runRegister .dex s fun cpu => { cpu.setNZ (cpu.x - 1#8) with x := cpu.x - 1#8 }

/-- DEY: `Y <- (Y - 1) mod 2^8; SetNZ(Y)` (R215). -/
def execDey (s : State) : Host.Outcome State Fault Refusal :=
  runRegister .dey s fun cpu => { cpu.setNZ (cpu.y - 1#8) with y := cpu.y - 1#8 }

end Sys2Proof.Machine
end

