-- ==== Sys2Proof/Machine/LoadStore.lean ====
section
/-! DEFINITION. Loads and stores (41_load_store.md). -/

namespace Sys2Proof.Machine

/-- LDA: `M <- Operand(); A <- M; SetNZ(A)` (R170). -/
def execLda (o : ReadOperand) (s : State) : Host.Outcome State Fault Refusal :=
  runRead (.lda o) o s fun v cpu => { cpu.setNZ v with a := v }

/-- LDX: `M <- Operand(); X <- M; SetNZ(X)` (R171). -/
def execLdx (o : ReadOperand) (s : State) : Host.Outcome State Fault Refusal :=
  runRead (.ldx o) o s fun v cpu => { cpu.setNZ v with x := v }

/-- LDY: `M <- Operand(); Y <- M; SetNZ(Y)` (R172). -/
def execLdy (o : ReadOperand) (s : State) : Host.Outcome State Fault Refusal :=
  runRead (.ldy o) o s fun v cpu => { cpu.setNZ v with y := v }

/-- STA: `MemWrite(EA, 1, A)` (R173). -/
def execSta (m : MemMode) (s : State) : Host.Outcome State Fault Refusal :=
  runStore (.sta m) m s fun cpu => cpu.a

/-- STX: `MemWrite(EA, 1, X)` (R174). -/
def execStx (m : MemMode) (s : State) : Host.Outcome State Fault Refusal :=
  runStore (.stx m) m s fun cpu => cpu.x

/-- STY: `MemWrite(EA, 1, Y)` (R175). -/
def execSty (m : MemMode) (s : State) : Host.Outcome State Fault Refusal :=
  runStore (.sty m) m s fun cpu => cpu.y

/-- STZ: `MemWrite(EA, 1, 0x00)` (R176). -/
def execStz (m : MemMode) (s : State) : Host.Outcome State Fault Refusal :=
  runStore (.stz m) m s fun _ => 0x00#8

end Sys2Proof.Machine
end

