-- ==== Sys2Proof/Machine/Logical.lean ====
section
/-! DEFINITION. AND, ORA and EOR (46_logical.md). -/

namespace Sys2Proof.Machine

/-- AND: `A <- A & M; SetNZ(A)` (R230). -/
def execAnd (o : ReadOperand) (s : State) : Host.Outcome State Fault Refusal :=
  runRead (.and o) o s fun v cpu => { cpu.setNZ (cpu.a &&& v) with a := cpu.a &&& v }

/-- ORA: `A <- A | M; SetNZ(A)` (R231). -/
def execOra (o : ReadOperand) (s : State) : Host.Outcome State Fault Refusal :=
  runRead (.ora o) o s fun v cpu => { cpu.setNZ (cpu.a ||| v) with a := cpu.a ||| v }

/-- EOR: `A <- A ^ M; SetNZ(A)` (R232). -/
def execEor (o : ReadOperand) (s : State) : Host.Outcome State Fault Refusal :=
  runRead (.eor o) o s fun v cpu => { cpu.setNZ (cpu.a ^^^ v) with a := cpu.a ^^^ v }

end Sys2Proof.Machine
end

