-- ==== Sys2Proof/Machine/ShiftRotate.lean ====
section
/-! DEFINITION. Shifts and rotates (45_shift_rotate.md). -/

namespace Sys2Proof.Machine

/-- ASL by one bit: N, Z and C (R220). -/
def execAsl (o : RmwOperand) (s : State) : Host.Outcome State Fault Refusal :=
  runRmw (.asl o) o s (fun v _ => (shiftAsl v).r) (fun v cpu => cpu.setShift (shiftAsl v))

/-- LSR by one bit: N, Z and C (R221). -/
def execLsr (o : RmwOperand) (s : State) : Host.Outcome State Fault Refusal :=
  runRmw (.lsr o) o s (fun v _ => (shiftLsr v).r) (fun v cpu => cpu.setShift (shiftLsr v))

/-- ROL by one bit: N, Z and C (R222). -/
def execRol (o : RmwOperand) (s : State) : Host.Outcome State Fault Refusal :=
  runRmw (.rol o) o s (fun v cpu => (shiftRol v cpu.c).r) (fun v cpu => cpu.setShift (shiftRol v cpu.c))

/-- ROR by one bit: N, Z and C (R223). -/
def execRor (o : RmwOperand) (s : State) : Host.Outcome State Fault Refusal :=
  runRmw (.ror o) o s (fun v cpu => (shiftRor v cpu.c).r) (fun v cpu => cpu.setShift (shiftRor v cpu.c))

end Sys2Proof.Machine
end

