-- ==== Sys2Proof/Machine/StackSystem.lean ====
section
/-! DEFINITION. Pushes, pulls, flag instructions, NOP, BRK, RTI, WAI, STP, the NMOS illegal opcodes and the CMOS no-ops
(49_stack_flags_system.md). -/

namespace Sys2Proof.Machine

/-- A push instruction (49_stack_flags_system.md section 1). -/
def runPush (i : Instr) (s : State) (f : CpuState → Byte) : Host.Outcome State Fault Refusal :=
  runInstr i s fun cpu b => (push (f cpu) cpu.sp b).andThen fun sp b => .ok { cpu := { cpu with sp := sp } } b

/-- A pull instruction: `f` takes the pulled byte, SP being updated already. -/
def runPull (i : Instr) (s : State) (f : Byte → CpuState → CpuState) : Host.Outcome State Fault Refusal :=
  runInstr i s fun cpu b => (pull cpu.sp b).andThen fun p b => .ok { cpu := f p.1 { cpu with sp := p.2 } } b

/-- PHA: `Push(A)` (R290). -/
def execPha (s : State) : Host.Outcome State Fault Refusal :=
  runPush .pha s fun cpu => cpu.a

/-- PHX: `Push(X)` (R294). -/
def execPhx (s : State) : Host.Outcome State Fault Refusal :=
  runPush .phx s fun cpu => cpu.x

/-- PHY: `Push(Y)` (R295). -/
def execPhy (s : State) : Host.Outcome State Fault Refusal :=
  runPush .phy s fun cpu => cpu.y

/-- PHP: `Push(PackP(1))` (R291). -/
def execPhp (s : State) : Host.Outcome State Fault Refusal :=
  runPush .php s fun cpu => cpu.packP true

/-- PLA: `A <- Pull(); SetNZ(A)` (R292). -/
def execPla (s : State) : Host.Outcome State Fault Refusal :=
  runPull .pla s fun v cpu => { cpu.setNZ v with a := v }

/-- PLX: `X <- Pull(); SetNZ(X)` (R296). -/
def execPlx (s : State) : Host.Outcome State Fault Refusal :=
  runPull .plx s fun v cpu => { cpu.setNZ v with x := v }

/-- PLY: `Y <- Pull(); SetNZ(Y)` (R297). -/
def execPly (s : State) : Host.Outcome State Fault Refusal :=
  runPull .ply s fun v cpu => { cpu.setNZ v with y := v }

/-- PLP: `UnpackP(Pull())` (R293). -/
def execPlp (s : State) : Host.Outcome State Fault Refusal :=
  runPull .plp s fun v cpu => cpu.unpackP v

/-- CLC: `C <- 0` (R300). -/
def execClc (s : State) : Host.Outcome State Fault Refusal :=
  runRegister .clc s fun cpu => { cpu with c := false }

/-- SEC: `C <- 1` (R301). -/
def execSec (s : State) : Host.Outcome State Fault Refusal :=
  runRegister .sec s fun cpu => { cpu with c := true }

/-- CLI: `I <- 0` (R302). -/
def execCli (s : State) : Host.Outcome State Fault Refusal :=
  runRegister .cli s fun cpu => { cpu with i := false }

/-- SEI: `I <- 1` (R303). -/
def execSei (s : State) : Host.Outcome State Fault Refusal :=
  runRegister .sei s fun cpu => { cpu with i := true }

/-- CLV: `V <- 0` (R304). -/
def execClv (s : State) : Host.Outcome State Fault Refusal :=
  runRegister .clv s fun cpu => { cpu with v := false }

/-- CLD: `D <- 0` (R305). -/
def execCld (s : State) : Host.Outcome State Fault Refusal :=
  runRegister .cld s fun cpu => { cpu with d := false }

/-- SED: `D <- 1` (R306). -/
def execSed (s : State) : Host.Outcome State Fault Refusal :=
  runRegister .sed s fun cpu => { cpu with d := true }

/-- NOP (R310). -/
def execNop (s : State) : Host.Outcome State Fault Refusal :=
  runRegister .nop s fun cpu => cpu

/-- BRK: vectors through 0xFFFE whatever I is, with B = 1 in the pushed status (R314); the return address skips the
padding byte. -/
def execBrk (pad : Byte) (s : State) : Host.Outcome State Fault Refusal :=
  runInstr (.brk pad) s fun cpu b =>
    (enterHandler s.cfg true irqVector cpu b).andThen fun cpu b => .ok { cpu := cpu } b

/-- RTI (R315). -/
def execRti (s : State) : Host.Outcome State Fault Refusal :=
  runInstr .rti s fun cpu b => (leaveHandler cpu b).andThen fun cpu b => .ok { cpu := cpu } b

/-- WAI: `run <- Waiting` (R316). -/
def execWai (s : State) : Host.Outcome State Fault Refusal :=
  runRegister .wai s fun cpu => { cpu with run := .waiting }

/-- STP: `run <- Stopped` (R317). -/
def execStp (s : State) : Host.Outcome State Fault Refusal :=
  runRegister .stp s fun cpu => { cpu with run := .stopped }

/-- ILLEGAL: `raise IllegalOpcode(op, PC_start)`; the step is abandoned in `Faulted` (R320, R335). -/
def execIllegal (op : Byte) (s : State) : Host.Outcome State Fault Refusal :=
  .next (s.abandon (.illegalOpcode op s.cpu.pc) s.bus)

/-- NOP*: nothing but PC and cycles (R321); the operand bytes were fetched. -/
def execNopStar (op : Byte) (shape : NopShape) (s : State) : Host.Outcome State Fault Refusal :=
  runRegister (.nopStar op shape) s fun cpu => cpu

end Sys2Proof.Machine
end

