-- ==== Sys2Proof/Machine/Transfer.lean ====
section
/-! DEFINITION. Register transfers (42_transfer.md). -/

namespace Sys2Proof.Machine

/-- TAX: `X <- A; SetNZ(X)` (R180). -/
def execTax (s : State) : Host.Outcome State Fault Refusal :=
  runRegister .tax s fun cpu => { cpu.setNZ cpu.a with x := cpu.a }

/-- TAY: `Y <- A; SetNZ(Y)` (R181). -/
def execTay (s : State) : Host.Outcome State Fault Refusal :=
  runRegister .tay s fun cpu => { cpu.setNZ cpu.a with y := cpu.a }

/-- TXA: `A <- X; SetNZ(A)` (R182). -/
def execTxa (s : State) : Host.Outcome State Fault Refusal :=
  runRegister .txa s fun cpu => { cpu.setNZ cpu.x with a := cpu.x }

/-- TYA: `A <- Y; SetNZ(A)` (R183). -/
def execTya (s : State) : Host.Outcome State Fault Refusal :=
  runRegister .tya s fun cpu => { cpu.setNZ cpu.y with a := cpu.y }

/-- TSX: `X <- SP; SetNZ(X)` (R184). -/
def execTsx (s : State) : Host.Outcome State Fault Refusal :=
  runRegister .tsx s fun cpu => { cpu.setNZ cpu.sp with x := cpu.sp }

/-- TXS: `SP <- X`, no flags (R185). -/
def execTxs (s : State) : Host.Outcome State Fault Refusal :=
  runRegister .txs s fun cpu => { cpu with sp := cpu.x }

end Sys2Proof.Machine
end

