-- ==== Sys2Proof/Machine/Dispatch.lean ====
section
/-! DEFINITION. The meaning of every instruction, one arm per constructor. -/

namespace Sys2Proof.Machine

def exec (i : Instr) (s : State) : Host.Outcome State Fault Refusal :=
  match i with
  | .lda o => Sys2Proof.Machine.execLda o s
  | .ldx o => Sys2Proof.Machine.execLdx o s
  | .ldy o => Sys2Proof.Machine.execLdy o s
  | .sta m => Sys2Proof.Machine.execSta m s
  | .stx m => Sys2Proof.Machine.execStx m s
  | .sty m => Sys2Proof.Machine.execSty m s
  | .stz m => Sys2Proof.Machine.execStz m s
  | .tax => Sys2Proof.Machine.execTax s
  | .tay => Sys2Proof.Machine.execTay s
  | .txa => Sys2Proof.Machine.execTxa s
  | .tya => Sys2Proof.Machine.execTya s
  | .tsx => Sys2Proof.Machine.execTsx s
  | .txs => Sys2Proof.Machine.execTxs s
  | .adc o => Sys2Proof.Machine.execAdc o s
  | .sbc o => Sys2Proof.Machine.execSbc o s
  | .inc o => Sys2Proof.Machine.execInc o s
  | .dec o => Sys2Proof.Machine.execDec o s
  | .inx => Sys2Proof.Machine.execInx s
  | .iny => Sys2Proof.Machine.execIny s
  | .dex => Sys2Proof.Machine.execDex s
  | .dey => Sys2Proof.Machine.execDey s
  | .asl o => Sys2Proof.Machine.execAsl o s
  | .lsr o => Sys2Proof.Machine.execLsr o s
  | .rol o => Sys2Proof.Machine.execRol o s
  | .ror o => Sys2Proof.Machine.execRor o s
  | .and o => Sys2Proof.Machine.execAnd o s
  | .ora o => Sys2Proof.Machine.execOra o s
  | .eor o => Sys2Proof.Machine.execEor o s
  | .cmp o => Sys2Proof.Machine.execCmp o s
  | .cpx o => Sys2Proof.Machine.execCpx o s
  | .cpy o => Sys2Proof.Machine.execCpy o s
  | .bit o => Sys2Proof.Machine.execBit o s
  | .tsb m => Sys2Proof.Machine.execTsb m s
  | .trb m => Sys2Proof.Machine.execTrb m s
  | .rmb0 zp => Sys2Proof.Machine.execRmb0 zp s
  | .rmb1 zp => Sys2Proof.Machine.execRmb1 zp s
  | .rmb2 zp => Sys2Proof.Machine.execRmb2 zp s
  | .rmb3 zp => Sys2Proof.Machine.execRmb3 zp s
  | .rmb4 zp => Sys2Proof.Machine.execRmb4 zp s
  | .rmb5 zp => Sys2Proof.Machine.execRmb5 zp s
  | .rmb6 zp => Sys2Proof.Machine.execRmb6 zp s
  | .rmb7 zp => Sys2Proof.Machine.execRmb7 zp s
  | .smb0 zp => Sys2Proof.Machine.execSmb0 zp s
  | .smb1 zp => Sys2Proof.Machine.execSmb1 zp s
  | .smb2 zp => Sys2Proof.Machine.execSmb2 zp s
  | .smb3 zp => Sys2Proof.Machine.execSmb3 zp s
  | .smb4 zp => Sys2Proof.Machine.execSmb4 zp s
  | .smb5 zp => Sys2Proof.Machine.execSmb5 zp s
  | .smb6 zp => Sys2Proof.Machine.execSmb6 zp s
  | .smb7 zp => Sys2Proof.Machine.execSmb7 zp s
  | .bpl off => Sys2Proof.Machine.execBpl off s
  | .bmi off => Sys2Proof.Machine.execBmi off s
  | .bvc off => Sys2Proof.Machine.execBvc off s
  | .bvs off => Sys2Proof.Machine.execBvs off s
  | .bcc off => Sys2Proof.Machine.execBcc off s
  | .bcs off => Sys2Proof.Machine.execBcs off s
  | .bne off => Sys2Proof.Machine.execBne off s
  | .beq off => Sys2Proof.Machine.execBeq off s
  | .bra off => Sys2Proof.Machine.execBra off s
  | .bbr0 zp off => Sys2Proof.Machine.execBbr0 zp off s
  | .bbr1 zp off => Sys2Proof.Machine.execBbr1 zp off s
  | .bbr2 zp off => Sys2Proof.Machine.execBbr2 zp off s
  | .bbr3 zp off => Sys2Proof.Machine.execBbr3 zp off s
  | .bbr4 zp off => Sys2Proof.Machine.execBbr4 zp off s
  | .bbr5 zp off => Sys2Proof.Machine.execBbr5 zp off s
  | .bbr6 zp off => Sys2Proof.Machine.execBbr6 zp off s
  | .bbr7 zp off => Sys2Proof.Machine.execBbr7 zp off s
  | .bbs0 zp off => Sys2Proof.Machine.execBbs0 zp off s
  | .bbs1 zp off => Sys2Proof.Machine.execBbs1 zp off s
  | .bbs2 zp off => Sys2Proof.Machine.execBbs2 zp off s
  | .bbs3 zp off => Sys2Proof.Machine.execBbs3 zp off s
  | .bbs4 zp off => Sys2Proof.Machine.execBbs4 zp off s
  | .bbs5 zp off => Sys2Proof.Machine.execBbs5 zp off s
  | .bbs6 zp off => Sys2Proof.Machine.execBbs6 zp off s
  | .bbs7 zp off => Sys2Proof.Machine.execBbs7 zp off s
  | .jmp m => Sys2Proof.Machine.execJmp m s
  | .jsr target => Sys2Proof.Machine.execJsr target s
  | .rts => Sys2Proof.Machine.execRts s
  | .pha => Sys2Proof.Machine.execPha s
  | .php => Sys2Proof.Machine.execPhp s
  | .pla => Sys2Proof.Machine.execPla s
  | .plp => Sys2Proof.Machine.execPlp s
  | .phx => Sys2Proof.Machine.execPhx s
  | .phy => Sys2Proof.Machine.execPhy s
  | .plx => Sys2Proof.Machine.execPlx s
  | .ply => Sys2Proof.Machine.execPly s
  | .clc => Sys2Proof.Machine.execClc s
  | .sec => Sys2Proof.Machine.execSec s
  | .cli => Sys2Proof.Machine.execCli s
  | .sei => Sys2Proof.Machine.execSei s
  | .clv => Sys2Proof.Machine.execClv s
  | .cld => Sys2Proof.Machine.execCld s
  | .sed => Sys2Proof.Machine.execSed s
  | .nop => Sys2Proof.Machine.execNop s
  | .brk pad => Sys2Proof.Machine.execBrk pad s
  | .rti => Sys2Proof.Machine.execRti s
  | .wai => Sys2Proof.Machine.execWai s
  | .stp => Sys2Proof.Machine.execStp s
  | .illegal op => Sys2Proof.Machine.execIllegal op s
  | .nopStar op shape => Sys2Proof.Machine.execNopStar op shape s

end Sys2Proof.Machine
end

