-- ==== Sys2Proof/Machine/Fetch.lean ====
section
/-! DEFINITION. The instruction fetch (00_scope.md R17, 30_encoding.md R114) and the sampling at an instruction boundary
(60_exceptions.md R341, R345, R370). -/

namespace Sys2Proof.Machine

/-- Fetches and decodes the instruction at `pc`: the opcode, then only as many operand bytes as its length asks for, so
that an illegal opcode is found before any operand fetch (R114, R128, R333). -/
def fetch (cfg : Config) (pc : Addr) (b : Bus) : BusRes Instr :=
  (memRead pc b).andThen fun op b =>
    match (descOf cfg op).length with
    | 1 => .ok (instrOf cfg op 0#8 0#8) b
    | 2 => (memRead (pc + 1#16) b).andThen fun op1 b => .ok (instrOf cfg op op1 0#8) b
    | _ =>
      (memRead (pc + 1#16) b).andThen fun op1 b =>
      (memRead (pc + 2#16) b).andThen fun op2 b => .ok (instrOf cfg op op1 op2) b

/-- What a step does at an instruction boundary. -/
inductive Boundary where
  /-- Nothing: Stopped, or Waiting with no input (R345, R346). -/
  | idle
  /-- Waiting ends without an interrupt entry (R345). -/
  | wake
  | interrupt (src : Source)
  | instruction
  /-- The core is in `Faulted(f)` and reports f again (R336). -/
  | report (f : Fault)
deriving DecidableEq, Repr

/-- Sampling of the inputs at a boundary (R341, R342, R345, R346, R370). -/
def sample (cpu : CpuState) (irqLine : Bool) : Boundary :=
  match cpu.run with
  | .faulted f => .report f
  | .stopped => .idle
  | .waiting =>
    if cpu.nmiPending then .interrupt .nmi
    else if irqLine then (if cpu.i then .wake else .interrupt .irq)
    else .idle
  | .running =>
    if cpu.nmiPending then .interrupt .nmi
    else if irqLine && !cpu.i then .interrupt .irq
    else .instruction

/-- The wake of R345: Running again, no cycles, nothing pushed. -/
def State.wake (s : State) : State := { s with cpu := { s.cpu with run := .running } }

/-- The three bytes of a word of opcode_table.json stored at PC (the addresses wrap, R93), in the reference device that
owns them; nothing else changes (log 6). -/
def storeAtPc (s : State) (nbits w : Nat) : State :=
  let put (m : List Host.Cell) (k : Nat) : List Host.Cell :=
    Memory.write m (s.cpu.pc + BitVec.ofNat 16 k).toNat (byteOf (w % 2 ^ nbits) k)
  { s with bus := { s.bus with mem := put (put (put s.bus.mem 0) 1) 2 } }

end Sys2Proof.Machine
end

