-- ==== Sys2Proof/Machine/InstructionStep.lean ====
section
/-! DEFINITION. An instruction step (30_encoding.md R114, 60_exceptions.md R335). -/

namespace Sys2Proof.Machine

/-- Fetch, then the meaning of the instruction on the state whose bus the fetch left; a fetch that raises abandons the
step (R114, R335). -/
def instructionStep (s : State) : Host.Outcome State Fault Refusal :=
  match fetch s.cfg s.cpu.pc s.bus with
  | .ok i b => exec i { s with bus := b }
  | .raised f b => .next (s.abandon f b)

end Sys2Proof.Machine
end

