-- ==== Sys2Proof/Machine/Step.lean ====
section
/-! DEFINITION. The step (60_exceptions.md R370). -/

namespace Sys2Proof.Machine

/-- One step of the core (R370). A step asked of a core in `Faulted(f)` reports f and changes nothing (R336). -/
def step (s : State) : Host.Outcome State Fault Refusal :=
  match sample s.cpu s.irqLine with
  | .report f => .fault f
  | .idle => .next s
  | .wake => .next s.wake
  | .interrupt src => .next (takeInterrupt src s)
  | .instruction => instructionStep s

/-- The state with the instruction of a word stored where the next step fetches it. -/
def State.withFetchWord (s : State) (nbits w : Nat) : State := storeAtPc s nbits w

end Sys2Proof.Machine
end

