-- ==== Sys2Proof/Machine/HostActions.lean ====
section
/-! DEFINITION. The host actions (60_exceptions.md R372), all of which happen between steps: reset (70_reset_and_hazards.md
R380 to R384), the interrupt inputs, inspector accesses, the registry and bulk load (20_memory.md R73, R74, R84), device
reset and tick, and the return value of a step (R370). -/

namespace Sys2Proof.Machine

/-! ## Reset -/

/-- `RESET_DRAW` (00_scope.md R12): a value for every element that reset leaves unspecified (R58), and for PC where the
vector cannot be read (R381). -/
structure ResetDraw where
  a : Byte
  x : Byte
  y : Byte
  sp : Byte
  n : Bool
  v : Bool
  b : Bool
  d : Bool
  z : Bool
  c : Bool
  ir : Byte
  pc : Addr
deriving DecidableEq, Repr

/-- CpuState as R380 leaves it before the vector is read, `pc` being the draw of R381. -/
def resetCpu (cfg : Config) (draw : ResetDraw) : CpuState :=
  { a := draw.a, x := draw.x, y := draw.y, sp := draw.sp, pc := draw.pc,
    n := draw.n, v := draw.v, b := draw.b, d := if cfg.isCmos then false else draw.d, i := true,
    z := draw.z, c := draw.c, ir := draw.ir, cycles := 0, nmiPending := false, run := .running }

/-- `reset()` (R380), and its failure when a vector read raises (R381). Devices, registry and the IRQ line are not reset
(R383, R58). -/
def hostReset (draw : ResetDraw) (s : State) : State :=
  match readPointer resetVector (resetVector + 1) s.bus with
  | .ok pc b => { s with cpu := { resetCpu s.cfg draw with pc := pc }, bus := b }
  | .raised f b => { s with cpu := { resetCpu s.cfg draw with run := .faulted f }, bus := b }

/-! ## The interrupt inputs -/

/-- `nmi()` (R50, R55): a second event while the latch is set is lost (R344). -/
def nmi (s : State) : State := { s with cpu := { s.cpu with nmiPending := true } }

/-- `setIrq(level)` (R51). -/
def setIrq (level : Bool) (s : State) : State := { s with irqLine := level }

/-! ## The inspector -/

/-- `inspectRead(addr)` (R80): the same lookup and errors as a processor read; nothing changes (R78). -/
def inspectRead (addr : Addr) (s : State) : BusRes Byte := s.bus.read addr false

/-- The host's answer to a call that may fail: the state after it, with the error where it failed. -/
inductive HostReply (ε : Type) where
  | done (s : State)
  | failed (e : ε) (s : State)
deriving DecidableEq, Repr

/-- `inspectWrite(addr, v)` (R80): the same lookup and errors as a processor write; CpuState is unchanged. -/
def inspectWrite (addr : Addr) (v : Byte) (s : State) : HostReply Fault :=
  match s.bus.write addr v false with
  | .ok _ b => .done { s with bus := b }
  | .raised f b => .failed f { s with bus := b }

/-- `readCpuState()` (R372, D24). -/
def readCpuState (s : State) : CpuState := s.cpu

/-! ## The registry -/

/-- A device outside the registry: a binding, and for a reference device its contents (log 11). -/
structure Device where
  binding : Binding
  cells : List Host.Cell
deriving DecidableEq, Repr

/-- The results of registry calls (R332): no step raises them. -/
inductive RegistryError where
  | rangeConflict (id : Nat)
  | notFound (id : Nat)
deriving DecidableEq, Repr

/-- Two inclusive ranges share an address. -/
def Binding.overlaps (d e : Binding) : Bool :=
  decide (d.start.toNat ≤ e.stop.toNat) && decide (e.start.toNat ≤ d.stop.toNat)

/-- The range has `s ≤ e` and lies in the configured window (R72, R73, D30). -/
def Binding.fits (cfg : Config) (d : Binding) : Bool :=
  decide (d.start.toNat ≤ d.stop.toNat) && decide (cfg.winLo.toNat ≤ d.start.toNat) &&
    decide (d.stop.toNat ≤ cfg.winHi.toNat)

/-- Insertion by ascending start address (R72). -/
def insertBinding (d : Binding) : List Binding → List Binding
  | [] => [d]
  | e :: es => if d.start.toNat ≤ e.start.toNat then d :: e :: es else e :: insertBinding d es

/-- The stored bytes with a device's range holding that device's contents and nothing else. -/
def placeCells (d : Device) (mem : List Host.Cell) : List Host.Cell :=
  Memory.writeAll (Memory.outside mem d.binding.start.toNat d.binding.stop.toNat)
    (Memory.inside d.cells d.binding.start.toNat d.binding.stop.toNat)

/-- `registerDevice(d)` (R73): a failed call leaves the state as it was. -/
def registerDevice (d : Device) (s : State) : HostReply RegistryError :=
  if d.binding.fits s.cfg && !(s.bus.registry.any fun e => d.binding.overlaps e) then
    .done { s with bus :=
      { registry := insertBinding d.binding s.bus.registry, mem := placeCells d s.bus.mem } }
  else .failed (.rangeConflict d.binding.id) s

/-- The registry without the first binding of an identity. -/
def removeBinding (id : Nat) : List Binding → List Binding
  | [] => []
  | d :: ds => if d.id = id then ds else d :: removeBinding id ds

/-- `unregisterDevice(d)` (R74): the range becomes a hole, and the device goes back to the caller with its contents
(`unregisteredDevice`); a failed call leaves the state as it was. -/
def unregisterDevice (id : Nat) (s : State) : HostReply RegistryError :=
  match s.bus.registry.find? (·.id == id) with
  | none => .failed (.notFound id) s
  | some d =>
    .done { s with bus :=
      { registry := removeBinding id s.bus.registry,
        mem := Memory.outside s.bus.mem d.start.toNat d.stop.toNat } }

/-- The device that `unregisterDevice` gives back (R74). -/
def unregisteredDevice (id : Nat) (s : State) : Option Device :=
  (s.bus.registry.find? (·.id == id)).map fun d =>
    { binding := d, cells := Memory.inside s.bus.mem d.start.toNat d.stop.toNat }

/-! ## Bulk load -/

/-- Why a bulk load failed (R84): an address that is not mapped, found before anything is written (it may lie above
0xFFFF, log 18), or a device's refusal of a byte. -/
inductive LoadError where
  | unmapped (addr : Nat)
  | refusedByDevice (f : Fault)
deriving DecidableEq, Repr

/-- The first address of a load that no device owns (R84, first loop). -/
def firstUnmapped (b : Bus) (start : Nat) : List Byte → Option Nat
  | [] => none
  | _ :: bytes =>
    if start > 0xFFFF then some start
    else
      match b.lookup (BitVec.ofNat 16 start) with
      | none => some start
      | some _ => firstUnmapped b (start + 1) bytes

/-- The inspector writes of a load (R84, second loop): the bytes before a refused one stay written. -/
def loadBytes (start : Nat) (bytes : List Byte) (b : Bus) : BusRes Unit :=
  match bytes with
  | [] => .ok () b
  | v :: bytes =>
    (b.write (BitVec.ofNat 16 start) v false).andThen fun _ b => loadBytes (start + 1) bytes b

/-- `load(start, bytes)` (R84). -/
def load (start : Addr) (bytes : List Byte) (s : State) : HostReply LoadError :=
  match firstUnmapped s.bus start.toNat bytes with
  | some addr => .failed (.unmapped addr) s
  | none =>
    match loadBytes start.toNat bytes s.bus with
    | .ok _ b => .done { s with bus := b }
    | .raised f b => .failed (.refusedByDevice f) { s with bus := b }

/-! ## Devices -/

/-- The peripherals of an identity with their state changed; a reference device has no state but its bytes
(DESIGN CHOICE, log 10, unsafe: its `reset()` and `tick()` do nothing). -/
def updateDevice (id : Nat) (f : Nat → Nat → Nat) (registry : List Binding) : List Binding :=
  registry.map fun d =>
    match d.kind with
    | .ram | .rom => d
    | .peripheral model state => if d.id = id then { d with kind := .peripheral model (f model state) } else d

/-- `deviceReset(d)` (R82). -/
def deviceReset (id : Nat) (s : State) : State :=
  { s with bus := { s.bus with registry := updateDevice id Config.deviceReset s.bus.registry } }

/-- `tick(d)` (R83). -/
def tick (id : Nat) (s : State) : State :=
  { s with bus := { s.bus with registry := updateDevice id Config.deviceTick s.bus.registry } }

/-! ## The step as the driver sees it -/

/-- The return value of `step()` (R370). -/
inductive StepReport where
  | noStep
  | fault (f : Fault)
  | woke
  | interrupted (src : Source)
  | executed (ir : Byte)
deriving DecidableEq, Repr

/-- A step's return value, `done` unless the step ended in a fault. -/
def reportOf (cpu : CpuState) (done : StepReport) : StepReport :=
  match cpu.run with
  | .faulted f => .fault f
  | .running | .waiting | .stopped => done

/-- What the step asked of a state returns (R370). -/
def stepReport (s : State) : StepReport :=
  match sample s.cpu s.irqLine with
  | .report f => .fault f
  | .idle => .noStep
  | .wake => .woke
  | .interrupt src => reportOf (takeInterrupt src s).cpu (.interrupted src)
  | .instruction =>
    match instructionStep s with
    | .next t => reportOf t.cpu (.executed t.cpu.ir)
    | .fault f => .fault f
    | .refused _ => .noStep

end Sys2Proof.Machine
end

