-- ==== Sys2Proof/Safety.lean ====
section
/-! DEFINITION. The terms in which claims speak of safe states: the bus invariant (20_memory.md R72), the address
window (00_scope.md R10), the run states a
configuration can have (10_state.md R52, 60_exceptions.md R331), and addresses that reads and writes reach. -/

namespace Sys2Proof.Machine

/-- The stored bytes are in canonical form and the registry is as R72 wants it. -/
def State.busWf (s : State) : Bool := Memory.wf s.bus.mem && registryWf s.cfg s.bus.registry

/-- The run states that a configuration can have: Waiting and Stopped exist only with CMOS_WAI_STP (R52), and
IllegalOpcode never occurs on CMOS (R331). -/
def runLegal (cfg : Config) : RunState → Bool
  | .running => true
  | .waiting | .stopped => cfg.hasWaiStp
  | .faulted (.illegalOpcode op _) => !cfg.isCmos && nmosIllegal.contains op
  | .faulted (.unmappedAddress _ _) | .faulted (.readOnlyViolation _) | .faulted (.deviceError _ _) => true

/-- The invariant of the machine: a window that R10 allows, the bus as `busWf` says, and a run state of the
configuration. -/
def State.Inv (s : State) : Prop :=
  s.cfg.wf = true ∧ s.busWf = true ∧ runLegal s.cfg s.cpu.run = true

/-- The core has raised a fault (R336). -/
def State.isFaulted (s : State) : Bool :=
  match s.cpu.run with
  | .faulted _ => true
  | .running | .waiting | .stopped => false

/-- A reference device owns the address, so that reads of it give a stored byte and change nothing (R86, R87). -/
def Bus.readable (b : Bus) (addr : Addr) : Prop := (b.peek addr).isSome = true

/-- A reference RAM owns the address (R86). -/
def Bus.writable (b : Bus) (addr : Addr) : Prop := ∃ d, b.lookup addr = some d ∧ d.kind = .ram

end Sys2Proof.Machine
end

