-- ==== Sys2Proof/Certificates/Slice0/Obligations.lean ====
section
/-! DEFINITION. The statements for the provers, and before each group the words (Claims) that it is written in. -/

section
open Sys2Proof Sys2Proof.Machine

/-! ## Encoding and decoding -/

/-- The bytes of an instruction, and that a core of the configuration decodes them to it whatever follows (R110). -/
def Claims.coded (cfg : Config) (i : Instr) (bytes : List Byte) : Prop :=
  encode i = some bytes ∧ ∀ rest, decode cfg (bytes ++ rest) = .ok i rest

/-- The configurations of a core without optional instructions, by variant (R8, R9, R10). -/
def Claims.plain (v : Variant) : Config :=
  { variant := v, cmosDecimal := true, cmosBitOps := false, cmosWaiStp := false,
    winLo := 0x0000#16, winHi := 0xFFFF#16 }

/-- A CMOS core with all optional instructions. -/
def Claims.full : Config := { Claims.plain .cmos with cmosBitOps := true, cmosWaiStp := true }

/-- Words written out from the maps of R117 and R118 and the examples of R126, with the instructions they are. -/
def Obligations.SampleWordsDecodeAsTheMapsSay : Prop :=
  Claims.coded (Claims.plain .nmos) (.lda (.imm 0x41#8)) [0xA9#8, 0x41#8] ∧
  Claims.coded (Claims.plain .nmos) (.lda (.mem (.abs 0x1234#16))) [0xAD#8, 0x34#8, 0x12#8] ∧
  Claims.coded (Claims.plain .nmos) (.jmp (.ind 0x1234#16)) [0x6C#8, 0x34#8, 0x12#8] ∧
  Claims.coded (Claims.plain .nmos) (.asl .acc) [0x0A#8] ∧
  Claims.coded (Claims.plain .nmos) (.bne 0xEE#8) [0xD0#8, 0xEE#8] ∧
  Claims.coded (Claims.plain .nmos) (.illegal 0x02#8) [0x02#8] ∧
  Claims.coded (Claims.plain .cmos) (.jmp (.iax 0x1234#16)) [0x7C#8, 0x34#8, 0x12#8] ∧
  Claims.coded (Claims.plain .cmos) (.stz (.abs 0x2000#16)) [0x9C#8, 0x00#8, 0x20#8] ∧
  Claims.coded (Claims.plain .cmos) (.nopStar 0x5C#8 (.three 0x34#8 0x12#8)) [0x5C#8, 0x34#8, 0x12#8] ∧
  Claims.coded Claims.full (.bbr0 0x10#8 0x0D#8) [0x0F#8, 0x10#8, 0x0D#8] ∧
  Claims.coded Claims.full .wai [0xCB#8]

/-- Every well-formed instruction has an encoding, and decoding it gives the instruction back, with every operand bit,
and leaves what follows. -/
def Obligations.DecodeOfEncode : Prop :=
  ∀ (cfg : Config) (i : Instr), i.wellFormed cfg = true →
    ∃ bytes, Claims.coded cfg i bytes ∧ bytes.length = i.length

/-- What the decoder reads is a well-formed instruction of the configuration, and its encoding is the bytes read: no
two byte sequences mean one instruction, and no bit of a word is dropped. -/
def Obligations.EncodeOfDecode : Prop :=
  ∀ (cfg : Config) (bytes rest : List Byte) (i : Instr), decode cfg bytes = .ok i rest →
    i.wellFormed cfg = true ∧ ∃ read, encode i = some read ∧ bytes = read ++ rest

/-- R115: every byte value resolves to a descriptor in every configuration, so that an opcode followed by two bytes is
always decoded; R111: the length is 1, 2 or 3. -/
def Obligations.DecodingIsTotal : Prop :=
  ∀ (cfg : Config) (op op1 op2 : Byte) (rest : List Byte),
    ((descOf cfg op).length = 1 ∧ ∃ i, decode cfg (op :: op1 :: op2 :: rest) = .ok i (op1 :: op2 :: rest)) ∨
    ((descOf cfg op).length = 2 ∧ ∃ i, decode cfg (op :: op1 :: op2 :: rest) = .ok i (op2 :: rest)) ∨
    ((descOf cfg op).length = 3 ∧ ∃ i, decode cfg (op :: op1 :: op2 :: rest) = .ok i rest)

/-- The instruction lengths of R111, and the operand assembly of R112: an 8-bit address is `op1`, a 16-bit address
`op2:op1`, low byte first. -/
def Obligations.OperandsAreAssembledLowByteFirst : Prop :=
  (∀ op1 : Byte,
    MemMode.operandBytes (.zp op1) = [op1] ∧ MemMode.operandBytes (.zpx op1) = [op1] ∧
    MemMode.operandBytes (.zpy op1) = [op1] ∧ MemMode.operandBytes (.izx op1) = [op1] ∧
    MemMode.operandBytes (.izy op1) = [op1] ∧ MemMode.operandBytes (.zpi op1) = [op1] ∧
    ReadOperand.operandBytes (.imm op1) = [op1]) ∧
  (∀ op1 op2 : Byte, ∀ w : Addr, w.toNat = op2.toNat * 256 + op1.toNat →
    MemMode.operandBytes (.abs w) = [op1, op2] ∧ MemMode.operandBytes (.absx w) = [op1, op2] ∧
    MemMode.operandBytes (.absy w) = [op1, op2] ∧ MemMode.operandBytes (.ind w) = [op1, op2] ∧
    MemMode.operandBytes (.iax w) = [op1, op2])

/-- The 27 opcodes of R119. -/
def Claims.cmosAdded : List Byte :=
  [0x04, 0x0C, 0x14, 0x1C, 0x12, 0x32, 0x52, 0x72, 0x92, 0xB2, 0xD2, 0xF2, 0x1A, 0x3A] ++
  [0x34, 0x3C, 0x89, 0x5A, 0x7A, 0xDA, 0xFA, 0x64, 0x74, 0x9C, 0x9E, 0x7C, 0x80]

/-- R119: the opcodes defined on CMOS and not on NMOS are the 27 of the list, with the instructions it names; and every
opcode defined on NMOS is defined on CMOS with the same mnemonic, mode and length. -/
def Obligations.CmosExtendsNmos : Prop :=
  (∀ op : Byte, op ∈ Claims.cmosAdded ↔
    (descOf (Claims.plain .nmos) op).kind = .illegal ∧ (descOf (Claims.plain .cmos) op).kind = .defined) ∧
  Claims.cmosAdded.length = 27 ∧
  (∀ op op1 op2 : Byte, (descOf (Claims.plain .nmos) op).kind = .defined →
    (descOf (Claims.plain .cmos) op).kind = .defined ∧
    (descOf (Claims.plain .cmos) op).mode = (descOf (Claims.plain .nmos) op).mode ∧
    (descOf (Claims.plain .cmos) op).length = (descOf (Claims.plain .nmos) op).length ∧
    instrOf (Claims.plain .cmos) op op1 op2 = instrOf (Claims.plain .nmos) op op1 op2) ∧
  (∀ op1 op2 : Byte, (Claims.cmosAdded.map fun op => instrOf (Claims.plain .cmos) op op1 op2) =
    [.tsb (.zp op1), .tsb (.abs (word op2 op1)), .trb (.zp op1), .trb (.abs (word op2 op1)),
     .ora (.mem (.zpi op1)), .and (.mem (.zpi op1)), .eor (.mem (.zpi op1)), .adc (.mem (.zpi op1)),
     .sta (.zpi op1), .lda (.mem (.zpi op1)), .cmp (.mem (.zpi op1)), .sbc (.mem (.zpi op1)),
     .inc .acc, .dec .acc, .bit (.mem (.zpx op1)), .bit (.mem (.absx (word op2 op1))), .bit (.imm op1),
     .phy, .ply, .phx, .plx, .stz (.zp op1), .stz (.zpx op1), .stz (.abs (word op2 op1)),
     .stz (.absx (word op2 op1)), .jmp (.iax (word op2 op1)), .bra op1])

/-! ## Cycle counts -/

/-- The column "read" of R399. -/
def Claims.readCycles : ModeKind → Nat
  | .imm => 2
  | .zp => 3
  | .zpx | .zpy | .abs | .absx | .absy => 4
  | .izx => 6
  | .izy | .zpi => 5
  | .imp | .acc | .ind | .iax | .rel | .zprel | .brk => 0

/-- The column "store" of R399. -/
def Claims.storeCycles : ModeKind → Nat
  | .zp => 3
  | .zpx | .zpy | .abs => 4
  | .absx | .absy | .zpi => 5
  | .izx | .izy => 6
  | .imm | .imp | .acc | .ind | .iax | .rel | .zprel | .brk => 0

/-- The column "read-modify-write" of R399, `indexed` being its entry for absx. -/
def Claims.modifyCycles (indexed : Nat) : ModeKind → Nat
  | .acc => 2
  | .zp => 5
  | .zpx | .abs => 6
  | .absx => indexed
  | .imm | .zpy | .absy | .izx | .izy | .zpi | .imp | .ind | .iax | .rel | .zprel | .brk => 0

/-- The base cycle counts of R399 by mode, R122, R123 and the one-line rules of file 49, and R121 for the no-ops. -/
def Claims.base (cfg : Config) : Instr → Nat
  | .lda o | .ldx o | .ldy o | .adc o | .sbc o | .and o | .ora o | .eor o | .cmp o | .cpx o | .cpy o | .bit o =>
    Claims.readCycles o.kind
  | .sta m | .stx m | .sty m | .stz m => Claims.storeCycles m.kind
  | .asl o | .lsr o | .rol o | .ror o => Claims.modifyCycles (if cfg.isCmos then 6 else 7) o.kind
  | .inc o | .dec o => Claims.modifyCycles 7 o.kind
  | .tsb m | .trb m => Claims.modifyCycles 7 m.kind
  | .jmp m =>
    match m.kind with
    | .ind => if cfg.isCmos then 6 else 5
    | .iax => 6
    | .abs | .imm | .zp | .zpx | .zpy | .absx | .absy | .izx | .izy | .zpi | .imp | .acc | .rel | .zprel | .brk => 3
  | .tax | .tay | .txa | .tya | .tsx | .txs | .inx | .iny | .dex | .dey => 2
  | .clc | .sec | .cli | .sei | .clv | .cld | .sed | .nop => 2
  | .bpl _ | .bmi _ | .bvc _ | .bvs _ | .bcc _ | .bcs _ | .bne _ | .beq _ | .bra _ => 2
  | .rmb0 _ | .rmb1 _ | .rmb2 _ | .rmb3 _ | .rmb4 _ | .rmb5 _ | .rmb6 _ | .rmb7 _
  | .smb0 _ | .smb1 _ | .smb2 _ | .smb3 _ | .smb4 _ | .smb5 _ | .smb6 _ | .smb7 _ => 5
  | .bbr0 _ _ | .bbr1 _ _ | .bbr2 _ _ | .bbr3 _ _ | .bbr4 _ _ | .bbr5 _ _ | .bbr6 _ _ | .bbr7 _ _
  | .bbs0 _ _ | .bbs1 _ _ | .bbs2 _ _ | .bbs3 _ _ | .bbs4 _ _ | .bbs5 _ _ | .bbs6 _ _ | .bbs7 _ _ => 5
  | .jsr _ | .rts | .rti => 6
  | .pha | .php | .phx | .phy | .wai | .stp => 3
  | .pla | .plp | .plx | .ply => 4
  | .brk _ => 7
  | .illegal _ => 0
  | .nopStar op _ =>
    if op = 0x5C#8 then 8
    else if op ∈ [0x54#8, 0xD4#8, 0xF4#8, 0xDC#8, 0xFC#8] then 4
    else if op = 0x44#8 then 3
    else if op ∈ [0x02#8, 0x22#8, 0x42#8, 0x62#8, 0x82#8, 0xC2#8, 0xE2#8] then 2
    else 1

/-- R399, and the counts of R121, R122 and R123: every well-formed instruction has the base count of its row. -/
def Obligations.BaseCyclesByMode : Prop :=
  ∀ (cfg : Config) (i : Instr), i.wellFormed cfg = true → i.baseCycles cfg = Claims.base cfg i

/-- The list of R160. -/
def Claims.paysPageCross (cfg : Config) : Instr → Bool
  | .lda o | .ora o | .and o | .eor o | .adc o | .sbc o | .cmp o =>
    o.kind == .absx || o.kind == .absy || o.kind == .izy
  | .ldx o => o.kind == .absy
  | .ldy o | .bit o => o.kind == .absx
  | .asl o | .lsr o | .rol o | .ror o => cfg.isCmos && o.kind == .absx
  | .cpx _ | .cpy _ | .sta _ | .stx _ | .sty _ | .stz _ | .inc _ | .dec _ | .tsb _ | .trb _ | .jmp _ => false
  | .tax | .tay | .txa | .tya | .tsx | .txs | .inx | .iny | .dex | .dey => false
  | .clc | .sec | .cli | .sei | .clv | .cld | .sed | .nop => false
  | .bpl _ | .bmi _ | .bvc _ | .bvs _ | .bcc _ | .bcs _ | .bne _ | .beq _ | .bra _ => false
  | .rmb0 _ | .rmb1 _ | .rmb2 _ | .rmb3 _ | .rmb4 _ | .rmb5 _ | .rmb6 _ | .rmb7 _
  | .smb0 _ | .smb1 _ | .smb2 _ | .smb3 _ | .smb4 _ | .smb5 _ | .smb6 _ | .smb7 _ => false
  | .bbr0 _ _ | .bbr1 _ _ | .bbr2 _ _ | .bbr3 _ _ | .bbr4 _ _ | .bbr5 _ _ | .bbr6 _ _ | .bbr7 _ _
  | .bbs0 _ _ | .bbs1 _ _ | .bbs2 _ _ | .bbs3 _ _ | .bbs4 _ _ | .bbs5 _ _ | .bbs6 _ _ | .bbs7 _ _ => false
  | .jsr _ | .rts | .rti | .pha | .php | .phx | .phy | .pla | .plp | .plx | .ply | .brk _ => false
  | .wai | .stp | .illegal _ | .nopStar _ _ => false

/-- R160: the page-cross cycle is charged to the instructions and modes of its list, and R161: to no store and to no
other read-modify-write. -/
def Obligations.PageCrossIsChargedToTheListedForms : Prop :=
  ∀ (cfg : Config) (i : Instr), i.wellFormed cfg = true → i.pagePenalty cfg = Claims.paysPageCross cfg i

/-! ## Flags and arithmetic -/

/-- R19 and R240, R45 with R42, and R46: SetNZ, Compare, and the status byte, whose bit 5 is always 1 and ignored on
the way in. -/
def Obligations.StatusByteAndFlagHelpers : Prop :=
  (∀ (cpu : CpuState) (v : Byte),
    cpu.setNZ v = { cpu with n := decide (128 ≤ v.toNat), z := decide (v.toNat = 0) }) ∧
  (∀ (cpu : CpuState) (r m : Byte),
    cpu.compare r m =
      { cpu with
        n := decide (128 ≤ (r.toNat + 256 - m.toNat) % 256), z := decide (r = m), c := decide (m.toNat ≤ r.toNat) }) ∧
  (∀ (cpu : CpuState) (b : Bool),
    (cpu.packP b).toNat = cpu.n.toNat * 128 + cpu.v.toNat * 64 + 32 + b.toNat * 16 + cpu.d.toNat * 8 +
      cpu.i.toNat * 4 + cpu.z.toNat * 2 + cpu.c.toNat) ∧
  (∀ (cpu : CpuState) (p : Byte),
    cpu.unpackP p =
      { cpu with
        n := p.getLsbD 7, v := p.getLsbD 6, b := p.getLsbD 4, d := p.getLsbD 3,
        i := p.getLsbD 2, z := p.getLsbD 1, c := p.getLsbD 0 } ∧
    ((cpu.unpackP p).packP (p.getLsbD 4)) = p ||| 0x20#8)

/-- R190: the result mod 256, C on unsigned overflow, V exactly when the signed sum lies outside -128..127, N and Z from
the result. -/
def Obligations.AddBinaryComputesSumCarryAndSignedOverflow : Prop :=
  ∀ (a m : Byte) (c : Bool),
    (addBinary a m c).r.toNat = (a.toNat + m.toNat + c.toNat) % 256 ∧
    ((addBinary a m c).c = true ↔ 255 < a.toNat + m.toNat + c.toNat) ∧
    ((addBinary a m c).v = true ↔
      a.toInt + m.toInt + (c.toNat : Int) < -128 ∨ 127 < a.toInt + m.toInt + (c.toNat : Int)) ∧
    (addBinary a m c).v = (((a ^^^ (addBinary a m c).r) &&& (m ^^^ (addBinary a m c).r) &&& 0x80#8) != 0#8) ∧
    (addBinary a m c).n = (addBinary a m c).r.getLsbD 7 ∧
    (addBinary a m c).z = decide ((addBinary a m c).r = 0#8)

/-- R191: the difference mod 256, C on no borrow, V exactly when the signed difference lies outside -128..127; and it
equals AddBinary of the complement in the result and in every flag. -/
def Obligations.SubBinaryIsAddBinaryOfTheComplement : Prop :=
  ∀ (a m : Byte) (c : Bool),
    (subBinary a m c).r.toNat = (a.toNat + 255 + c.toNat - m.toNat) % 256 ∧
    ((subBinary a m c).c = true ↔ m.toNat + 1 ≤ a.toNat + c.toNat) ∧
    ((subBinary a m c).v = true ↔
      a.toInt - m.toInt - (1 - (c.toNat : Int)) < -128 ∨ 127 < a.toInt - m.toInt - (1 - (c.toNat : Int))) ∧
    (subBinary a m c).v = (((a ^^^ m) &&& (a ^^^ (subBinary a m c).r) &&& 0x80#8) != 0#8) ∧
    (subBinary a m c).n = (subBinary a m c).r.getLsbD 7 ∧
    (subBinary a m c).z = decide ((subBinary a m c).r = 0#8) ∧
    subBinary a m c = addBinary a (m ^^^ 0xFF#8) c

/-- The corrected low digit of R192, in both its sequences. -/
def Claims.lowSum (a m c : Nat) : Nat :=
  if 10 ≤ a % 16 + m % 16 + c then (a % 16 + m % 16 + c + 6) % 16 + 16 else a % 16 + m % 16 + c

/-- The sum of sequence 1 of R192 before and after its second correction. -/
def Claims.highSum (a m c : Nat) : Nat :=
  if 160 ≤ a / 16 * 16 + m / 16 * 16 + Claims.lowSum a m c then
    a / 16 * 16 + m / 16 * 16 + Claims.lowSum a m c + 96
  else a / 16 * 16 + m / 16 * 16 + Claims.lowSum a m c

/-- The high nibble of a byte as a signed number: `sext_8(v & 0xF0)`. -/
def Claims.signedHigh (v : Nat) : Int := if 128 ≤ v then (v / 16 * 16 : Int) - 256 else (v / 16 * 16 : Int)

/-- The low digit of sequence 3 of R193. -/
def Claims.lowDifference (a m c : Nat) : Int :=
  if (a % 16 : Int) - (m % 16 : Int) + (c : Int) - 1 < 0 then
    ((a % 16 : Int) - (m % 16 : Int) + (c : Int) - 1 - 6) % 16 - 16
  else (a % 16 : Int) - (m % 16 : Int) + (c : Int) - 1

/-- Sequence 3 of R193 (NMOS), before the cut to 8 bits. -/
def Claims.nmosDifference (a m c : Nat) : Int :=
  if (a / 16 * 16 : Int) - (m / 16 * 16 : Int) + Claims.lowDifference a m c < 0 then
    (a / 16 * 16 : Int) - (m / 16 * 16 : Int) + Claims.lowDifference a m c - 96
  else (a / 16 * 16 : Int) - (m / 16 * 16 : Int) + Claims.lowDifference a m c

/-- Sequence 4 of R193 (CMOS), before the cut to 8 bits. -/
def Claims.cmosDifference (a m c : Nat) : Int :=
  (a : Int) - (m : Int) + (c : Int) - 1 - (if (a : Int) - (m : Int) + (c : Int) - 1 < 0 then 96 else 0) -
    (if (a % 16 : Int) - (m % 16 : Int) + (c : Int) - 1 < 0 then 6 else 0)

/-- R192 and R193: the decimal sequences of both variants, with their flags, for all operands. -/
def Obligations.DecimalSequencesOfBothVariants : Prop :=
  ∀ (a m : Byte) (c : Bool),
    (∀ v : Variant,
      (addDecimal v a m c).r.toNat = Claims.highSum a.toNat m.toNat c.toNat % 256 ∧
      ((addDecimal v a m c).c = true ↔ 256 ≤ Claims.highSum a.toNat m.toNat c.toNat) ∧
      ((addDecimal v a m c).v = true ↔
        Claims.signedHigh a.toNat + Claims.signedHigh m.toNat + Claims.lowSum a.toNat m.toNat c.toNat < -128 ∨
        127 < Claims.signedHigh a.toNat + Claims.signedHigh m.toNat + Claims.lowSum a.toNat m.toNat c.toNat)) ∧
    ((addDecimal .nmos a m c).n = true ↔ 128 ≤
      (Claims.signedHigh a.toNat + Claims.signedHigh m.toNat + Claims.lowSum a.toNat m.toNat c.toNat) % 256) ∧
    ((addDecimal .nmos a m c).z = true ↔ (a.toNat + m.toNat + c.toNat) % 256 = 0) ∧
    (addDecimal .cmos a m c).n = (addDecimal .cmos a m c).r.getLsbD 7 ∧
    (addDecimal .cmos a m c).z = decide ((addDecimal .cmos a m c).r = 0#8) ∧
    ((subDecimal .nmos a m c).r.toNat : Int) = Claims.nmosDifference a.toNat m.toNat c.toNat % 256 ∧
    ((subDecimal .cmos a m c).r.toNat : Int) = Claims.cmosDifference a.toNat m.toNat c.toNat % 256 ∧
    (∀ v : Variant,
      (subDecimal v a m c).c = (subBinary a m c).c ∧ (subDecimal v a m c).v = (subBinary a m c).v) ∧
    (subDecimal .nmos a m c).n = (subBinary a m c).n ∧ (subDecimal .nmos a m c).z = (subBinary a m c).z ∧
    (subDecimal .cmos a m c).n = (subDecimal .cmos a m c).r.getLsbD 7 ∧
    (subDecimal .cmos a m c).z = decide ((subDecimal .cmos a m c).r = 0#8)

/-- Two decimal digits as a packed byte. -/
def Claims.bcd (n : Nat) : Byte := BitVec.ofNat 8 (n / 10 * 16 + n % 10)

/-- On packed decimal operands, ADC and SBC in decimal mode add and subtract in base 100 on both variants, and carry and
borrow are those of the decimal numbers (from R192 and R193). -/
def Obligations.DecimalModeAddsAndSubtractsDecimalNumbers : Prop :=
  ∀ (v : Variant) (x y : Nat) (c : Bool), x < 100 → y < 100 →
    (addDecimal v (Claims.bcd x) (Claims.bcd y) c).r = Claims.bcd ((x + y + c.toNat) % 100) ∧
    ((addDecimal v (Claims.bcd x) (Claims.bcd y) c).c = true ↔ 100 ≤ x + y + c.toNat) ∧
    (subDecimal v (Claims.bcd x) (Claims.bcd y) c).r = Claims.bcd ((x + 99 + c.toNat - y) % 100) ∧
    ((subDecimal v (Claims.bcd x) (Claims.bcd y) c).c = true ↔ y + 1 ≤ x + c.toNat)

/-! ## The bus and the stack -/

/-- Every byte that a reference device stores reads as before. -/
def Claims.sameBytes (b b' : Bus) : Prop := ∀ addr, b'.peek addr = b.peek addr

/-- Every stored byte outside a list of addresses reads as before. -/
def Claims.sameBytesBut (stored : List Addr) (b b' : Bus) : Prop := ∀ addr, addr ∉ stored → b'.peek addr = b.peek addr

/-- A fault that a processor read raises (R331). -/
def Claims.readFault (f : Fault) : Prop := ∃ addr, f = .unmappedAddress addr .read ∨ f = .deviceError addr .read

/-- A fault that a processor write of one of these addresses raises (R331). -/
def Claims.writeFault (stored : List Addr) (f : Fault) : Prop :=
  ∃ addr ∈ stored, f = .unmappedAddress addr .write ∨ f = .readOnlyViolation addr ∨ f = .deviceError addr .write

/-- Processor writes made in order; a later one is not made if an earlier one raised (R96). -/
def Claims.writesInOrder : List (Addr × Byte) → Bus → BusRes Unit
  | [], b => .ok () b
  | (addr, v) :: more, b =>
    match memWrite addr v b with
    | .ok _ b' => Claims.writesInOrder more b'
    | .raised f b' => .raised f b'

/-- Processor reads made in order; a later one is not made if an earlier one raised (R96). -/
def Claims.readsInOrder : List Addr → Bus → BusRes (List Byte)
  | [], b => .ok [] b
  | addr :: more, b =>
    match memRead addr b with
    | .raised f b' => .raised f b'
    | .ok v b' =>
      match Claims.readsInOrder more b' with
      | .ok vs b'' => .ok (v :: vs) b''
      | .raised f b'' => .raised f b''

/-- R72 and R75: in a state whose registry is as R72 wants it, the owner of an address is the one device whose inclusive
range contains it, and `lookup` finds it. -/
def Obligations.LookupFindsTheOneOwner : Prop :=
  ∀ (cfg : Config) (b : Bus) (addr : Addr) (d : Binding), registryWf cfg b.registry = true →
    (b.lookup addr = some d ↔
      d ∈ b.registry ∧ d.start.toNat ≤ addr.toNat ∧ addr.toNat ≤ d.stop.toNat) ∧
    (d ∈ b.registry → cfg.winLo.toNat ≤ d.start.toNat ∧ d.start.toNat ≤ d.stop.toNat ∧ d.stop.toNat ≤ cfg.winHi.toNat) ∧
    (∀ e, d ∈ b.registry → e ∈ b.registry → d.start.toNat ≤ addr.toNat → addr.toNat ≤ d.stop.toNat →
      e.start.toNat ≤ addr.toNat → addr.toNat ≤ e.stop.toNat → d = e)

/-- From R76, R77 and R103: an address without an owner faults in the direction of the access and gives no value; a
peripheral's reply decides the value or the fault. That the device's behaviour is a free reply, that its next state is kept
where the access fails too, and that an inspector read answers only where a processor read would, are the model's (log 8,
log 9, log 20). -/
def Obligations.BusAccessesReachTheOwnerOrFault : Prop :=
  ∀ (b : Bus) (addr : Addr) (v : Byte) (p : Bool),
    (b.lookup addr = none →
      b.read addr p = .raised (.unmappedAddress addr .read) b ∧
      b.write addr v p = .raised (.unmappedAddress addr .write) b) ∧
    (∀ d model state, b.lookup addr = some d → d.kind = .peripheral model state →
      (∀ x, (Config.deviceRead model state addr true).value = some x →
        b.read addr true = .ok x (b.setDevice addr (Config.deviceRead model state addr true).next) ∧
        (∀ y, (Config.deviceRead model state addr false).value = some y → b.read addr false = .ok x b)) ∧
      ((Config.deviceRead model state addr true).value = none →
        b.read addr true =
          .raised (.deviceError addr .read) (b.setDevice addr (Config.deviceRead model state addr true).next)) ∧
      (((Config.deviceRead model state addr true).value = none ∨
          (Config.deviceRead model state addr false).value = none) →
        b.read addr false = .raised (.deviceError addr .read) b) ∧
      (b.setDevice addr (Config.deviceRead model state addr true).next).lookup addr =
        some { d with kind := .peripheral model (Config.deviceRead model state addr true).next } ∧
      (b.setDevice addr (Config.deviceWrite model state addr v p).next).lookup addr =
        some { d with kind := .peripheral model (Config.deviceWrite model state addr v p).next } ∧
      ((Config.deviceWrite model state addr v p).result = .stored →
        b.write addr v p = .ok () (b.setDevice addr (Config.deviceWrite model state addr v p).next)) ∧
      ((Config.deviceWrite model state addr v p).result = .readOnly →
        b.write addr v p =
          .raised (.readOnlyViolation addr) (b.setDevice addr (Config.deviceWrite model state addr v p).next)) ∧
      ((Config.deviceWrite model state addr v p).result = .failed →
        b.write addr v p =
          .raised (.deviceError addr .write) (b.setDevice addr (Config.deviceWrite model state addr v p).next)))

/-- R87, and R86 but for its initial contents: a RAM takes a write of either origin, a ROM an inspector's only, the next
read of either origin gives the value and changes nothing, and every other stored byte is as before. -/
def Obligations.RamAndRomStoreBytes : Prop :=
  ∀ (b : Bus) (addr : Addr) (v : Byte) (d : Binding), Memory.wf b.mem = true → b.lookup addr = some d →
    ((d.kind = .ram ∨ d.kind = .rom) →
      (∀ p, ∃ x, b.peek addr = some x ∧ b.read addr p = .ok x b) ∧
      ∃ b', b.write addr v false = .ok () b' ∧ Claims.sameBytesBut [addr] b b' ∧ Memory.wf b'.mem = true ∧
        b'.registry = b.registry ∧ ∀ q, b'.read addr q = .ok v b') ∧
    (d.kind = .ram → b.write addr v true = b.write addr v false) ∧
    (d.kind = .rom → b.write addr v true = .raised (.readOnlyViolation addr) b)

/-- From R80, R78 and R81: an inspector read goes through the same lookup and errors and leaves the bus as it was; a byte that it
returns is what a processor read at that moment would return; where a processor read answers, it may be refused for its
mode, but by no reference device; an inspector write is a bus write and leaves CpuState as it was. How R78 and R81 meet in a
failing read is the model's deduction (log 20). -/
def Obligations.InspectorAccessesHaveNoSideEffects : Prop :=
  ∀ (s : State) (addr : Addr) (v : Byte),
    (∀ x b, inspectRead addr s = .ok x b → b = s.bus ∧ ∃ b', s.bus.read addr true = .ok x b') ∧
    (∀ f b, inspectRead addr s = .raised f b → b = s.bus) ∧
    (∀ f b, s.bus.read addr true = .raised f b → inspectRead addr s = .raised f s.bus) ∧
    (∀ x b, s.bus.read addr true = .ok x b →
      inspectRead addr s = .ok x s.bus ∨ inspectRead addr s = .raised (.deviceError addr .read) s.bus) ∧
    (∀ x, s.bus.peek addr = some x → inspectRead addr s = .ok x s.bus) ∧
    (∀ t, inspectWrite addr v s = .done t →
      t.cpu = s.cpu ∧ t.cfg = s.cfg ∧ t.irqLine = s.irqLine ∧ s.bus.write addr v false = .ok () t.bus) ∧
    (∀ f t, inspectWrite addr v s = .failed f t →
      t.cpu = s.cpu ∧ t.cfg = s.cfg ∧ t.irqLine = s.irqLine ∧ s.bus.write addr v false = .raised f t.bus)

/-- R18 and R34: a push writes at 0x0100 + SP and then decrements SP mod 256, a pull increments it mod 256 and then
reads, so that the stack never leaves page 1; and what a push stores in a RAM the next pull gives back. -/
def Obligations.PushAndPullUseTheStackPage : Prop :=
  ∀ (sp v : Byte) (b : Bus),
    (stackAddr sp).toNat = 256 + sp.toNat ∧
    (∀ b', memWrite (stackAddr sp) v b = .ok () b' →
      ∃ sp', push v sp b = .ok sp' b' ∧ sp'.toNat = (sp.toNat + 255) % 256) ∧
    (∀ f b', memWrite (stackAddr sp) v b = .raised f b' → push v sp b = .raised f b') ∧
    (∀ sp' x b', sp'.toNat = (sp.toNat + 1) % 256 → memRead (stackAddr sp') b = .ok x b' →
      pull sp b = .ok (x, sp') b') ∧
    (∀ sp' f b', sp'.toNat = (sp.toNat + 1) % 256 → memRead (stackAddr sp') b = .raised f b' →
      pull sp b = .raised f b') ∧
    (Memory.wf b.mem = true → b.writable (stackAddr sp) →
      ∃ sp' b', push v sp b = .ok sp' b' ∧ pull sp' b' = .ok (v, sp) b')

/-! ## Addressing -/

/-- R145 to R150: the modes without a resolution read. Zero-page sums wrap mod 256, absolute sums mod 65536, and an
indexed absolute address crosses a page exactly when its high byte is not the base's. -/
def Obligations.DirectModesComputeTheirAddress : Prop :=
  ∀ (cfg : Config) (cpu : CpuState) (b : Bus),
    (∀ a : Byte, ∃ ea : Addr, ea.toNat = a.toNat ∧ resolve cfg cpu (.zp a) b = .ok { ea := ea, crossed := false } b) ∧
    (∀ a : Byte, ∃ ea : Addr, ea.toNat = (a.toNat + cpu.x.toNat) % 256 ∧
      resolve cfg cpu (.zpx a) b = .ok { ea := ea, crossed := false } b) ∧
    (∀ a : Byte, ∃ ea : Addr, ea.toNat = (a.toNat + cpu.y.toNat) % 256 ∧
      resolve cfg cpu (.zpy a) b = .ok { ea := ea, crossed := false } b) ∧
    (∀ w : Addr, resolve cfg cpu (.abs w) b = .ok { ea := w, crossed := false } b) ∧
    (∀ w : Addr, ∃ ea : Addr, ea.toNat = (w.toNat + cpu.x.toNat) % 65536 ∧
      resolve cfg cpu (.absx w) b = .ok { ea := ea, crossed := decide (w.toNat / 256 ≠ ea.toNat / 256) } b) ∧
    (∀ w : Addr, ∃ ea : Addr, ea.toNat = (w.toNat + cpu.y.toNat) % 65536 ∧
      resolve cfg cpu (.absy w) b = .ok { ea := ea, crossed := decide (w.toNat / 256 ≠ ea.toNat / 256) } b)

/-- A mode that reads a pointer at `lo` and then at `hi`: its address comes from the two bytes by `ea`, and a read that
raises ends the resolution. -/
def Claims.pointer (cfg : Config) (cpu : CpuState) (b : Bus) (m : MemMode) (lo hi : Nat)
    (answer : Addr → Resolved) : Prop :=
  (∀ l h b', Claims.readsInOrder [BitVec.ofNat 16 lo, BitVec.ofNat 16 hi] b = .ok [l, h] b' →
    ∃ p : Addr, p.toNat = h.toNat * 256 + l.toNat ∧ resolve cfg cpu m b = .ok (answer p) b' ∧ Claims.sameBytes b b') ∧
  (∀ f b', Claims.readsInOrder [BitVec.ofNat 16 lo, BitVec.ofNat 16 hi] b = .raised f b' →
    resolve cfg cpu m b = .raised f b' ∧ Claims.readFault f ∧ Claims.sameBytes b b')

/-- R151 to R155, in the order of R164: the two pointer reads of each indirect mode, the wrap of the second within the
zero page, within 16 bits, or on NMOS within the page for JMP, and the address. -/
def Obligations.PointerModesReadLowThenHigh : Prop :=
  ∀ (cfg : Config) (cpu : CpuState) (b : Bus),
    (∀ w : Addr, Claims.pointer cfg cpu b (.ind w) w.toNat
      (if cfg.isCmos then (w.toNat + 1) % 65536 else w.toNat / 256 * 256 + (w.toNat + 1) % 256)
      (fun p => { ea := p, crossed := false })) ∧
    (∀ a : Byte, Claims.pointer cfg cpu b (.izx a) ((a.toNat + cpu.x.toNat) % 256) ((a.toNat + cpu.x.toNat + 1) % 256)
      (fun p => { ea := p, crossed := false })) ∧
    (∀ a : Byte, Claims.pointer cfg cpu b (.izy a) a.toNat ((a.toNat + 1) % 256)
      (fun p =>
        { ea := BitVec.ofNat 16 (p.toNat + cpu.y.toNat),
          crossed := decide (p.toNat / 256 ≠ (p.toNat + cpu.y.toNat) % 65536 / 256) })) ∧
    (∀ a : Byte, Claims.pointer cfg cpu b (.zpi a) a.toNat ((a.toNat + 1) % 256)
      (fun p => { ea := p, crossed := false })) ∧
    (∀ w : Addr, Claims.pointer cfg cpu b (.iax w) ((w.toNat + cpu.x.toNat) % 65536)
      ((w.toNat + cpu.x.toNat + 1) % 65536) (fun p => { ea := p, crossed := false }))

/-- R144 and R163: an immediate operand is the byte itself, without a data read; any other read-class operand is one
processor read at the effective address, after the resolution. -/
def Obligations.OperandIsImmediateOrOneRead : Prop :=
  ∀ (cfg : Config) (cpu : CpuState) (b : Bus),
    (∀ v : Byte, operandValue cfg cpu (.imm v) b = .ok { value := v, crossed := false } b) ∧
    (∀ (m : MemMode) (r : Resolved) (b1 : Bus), resolve cfg cpu m b = .ok r b1 →
      (∀ v b2, memRead r.ea b1 = .ok v b2 →
        operandValue cfg cpu (.mem m) b = .ok { value := v, crossed := r.crossed } b2) ∧
      (∀ f b2, memRead r.ea b1 = .raised f b2 → operandValue cfg cpu (.mem m) b = .raised f b2)) ∧
    (∀ (m : MemMode) (f : Fault) (b1 : Bus), resolve cfg cpu m b = .raised f b1 →
      operandValue cfg cpu (.mem m) b = .raised f b1)

/-! ## Instructions -/

/-- The state after a completed instruction: PC past its bytes (R35), IR its opcode (R47), `cost` more cycles (R49);
every other register as in `cpu`. -/
def Claims.after (s : State) (op : Byte) (length cost : Nat) (cpu : CpuState) (b : Bus) : State :=
  { s with
    cpu := { cpu with pc := s.cpu.pc + BitVec.ofNat 16 length, ir := op, cycles := s.cpu.cycles + cost }
    bus := b }

/-- A fault on the fetch abandons the step (R335), before any instruction runs. -/
def Claims.fetchFaults (s : State) : Prop :=
  sample s.cpu s.irqLine = .instruction → ∀ f b, fetch s.cfg s.cpu.pc s.bus = .raised f b →
    step s = .next (s.abandon f b) ∧ Claims.readFault f ∧ Claims.sameBytes s.bus b

/-- The opcode of a mode: in the list of both variants, or on CMOS in the second list too. -/
def Claims.opcodeOf (cfg : Config) (both cmosOnly : List (ModeKind × Byte)) (k : ModeKind) : Option Byte :=
  (both ++ if cfg.isCmos then cmosOnly else []).lookup k

/-- On NMOS the opcodes of the CMOS-only forms are illegal (R120). -/
def Claims.illegalOnNmos (cfg : Config) (ops : List Byte) : Prop :=
  cfg.isCmos = false → ∀ op ∈ ops, ∀ rest, decode cfg (op :: rest) = .ok (.illegal op) rest

/-- A read-class instruction (R141): what it does to the registers with the operand byte, its cost (R165), and its
faults. It stores nothing. -/
def Claims.reads (s : State) (i : Instr) (o : ReadOperand) (op : Byte) (extra : Nat) (f : Byte → CpuState) : Prop :=
  Claims.coded s.cfg i (op :: o.operandBytes) ∧
  (∀ r b, operandValue s.cfg s.cpu o s.bus = .ok r b →
    exec i s = .next (Claims.after s op (1 + o.operandBytes.length)
      (i.baseCycles s.cfg + (if i.pagePenalty s.cfg && r.crossed then 1 else 0) + extra) (f r.value) b) ∧
    Claims.sameBytes s.bus b) ∧
  (∀ fault b, operandValue s.cfg s.cpu o s.bus = .raised fault b →
    exec i s = .next (s.abandon fault b) ∧ Claims.readFault fault ∧ Claims.sameBytes s.bus b)

/-- All the forms of a read-class instruction, and that it has no other. -/
def Claims.readForms (s : State) (build : ReadOperand → Instr) (both cmosOnly : List (ModeKind × Byte)) (extra : Nat)
    (f : ReadOperand → Byte → CpuState) : Prop :=
  (∀ o, (build o).wellFormed s.cfg = (Claims.opcodeOf s.cfg both cmosOnly o.kind).isSome) ∧
  Claims.illegalOnNmos s.cfg (cmosOnly.map (·.2)) ∧
  ∀ o op, Claims.opcodeOf s.cfg both cmosOnly o.kind = some op → Claims.reads s (build o) o op extra (f o)

/-- A write-class instruction (R141): one write of `v` at the effective address, and no read of it; no register but PC,
IR and cycles changes. -/
def Claims.stores (s : State) (i : Instr) (m : MemMode) (op v : Byte) : Prop :=
  Claims.coded s.cfg i (op :: m.operandBytes) ∧
  (∀ r b, resolve s.cfg s.cpu m s.bus = .ok r b →
    (∀ b', memWrite r.ea v b = .ok () b' →
      exec i s = .next (Claims.after s op (1 + m.operandBytes.length) (i.baseCycles s.cfg) s.cpu b') ∧
      Claims.sameBytesBut [r.ea] s.bus b' ∧
      (b.writable r.ea → Memory.wf s.bus.mem = true → b'.peek r.ea = some v)) ∧
    (∀ f b', memWrite r.ea v b = .raised f b' →
      exec i s = .next (s.abandon f b') ∧ Claims.writeFault [r.ea] f ∧ Claims.sameBytes s.bus b')) ∧
  (∀ f b, resolve s.cfg s.cpu m s.bus = .raised f b →
    exec i s = .next (s.abandon f b) ∧ Claims.readFault f ∧ Claims.sameBytes s.bus b)

/-- All the forms of a write-class instruction, and that it has no other. -/
def Claims.storeForms (s : State) (build : MemMode → Instr) (both cmosOnly : List (ModeKind × Byte)) (v : Byte) :
    Prop :=
  (∀ m, (build m).wellFormed s.cfg = (Claims.opcodeOf s.cfg both cmosOnly m.kind).isSome) ∧
  Claims.illegalOnNmos s.cfg (cmosOnly.map (·.2)) ∧
  ∀ m op, Claims.opcodeOf s.cfg both cmosOnly m.kind = some op → Claims.stores s (build m) m op v

/-- A read-modify-write of a memory byte (R141): one read, then one write of `w` of the byte read at the same address;
the registers as `g` gives them. -/
def Claims.modifies (s : State) (i : Instr) (m : MemMode) (op : Byte) (w : Byte → Byte) (g : Byte → CpuState) : Prop :=
  Claims.coded s.cfg i (op :: m.operandBytes) ∧
  (∀ r b, resolve s.cfg s.cpu m s.bus = .ok r b →
    (∀ v b1, memRead r.ea b = .ok v b1 →
      (∀ b2, memWrite r.ea (w v) b1 = .ok () b2 →
        exec i s = .next (Claims.after s op (1 + m.operandBytes.length)
          (i.baseCycles s.cfg + (if i.pagePenalty s.cfg && r.crossed then 1 else 0)) (g v) b2) ∧
        Claims.sameBytesBut [r.ea] s.bus b2 ∧
        (b1.writable r.ea → Memory.wf s.bus.mem = true → b2.peek r.ea = some (w v))) ∧
      (∀ f b2, memWrite r.ea (w v) b1 = .raised f b2 →
        exec i s = .next (s.abandon f b2) ∧ Claims.writeFault [r.ea] f ∧ Claims.sameBytes s.bus b2)) ∧
    (∀ f b1, memRead r.ea b = .raised f b1 →
      exec i s = .next (s.abandon f b1) ∧ Claims.readFault f ∧ Claims.sameBytes s.bus b1)) ∧
  (∀ f b, resolve s.cfg s.cpu m s.bus = .raised f b →
    exec i s = .next (s.abandon f b) ∧ Claims.readFault f ∧ Claims.sameBytes s.bus b)

/-- All the forms of an instruction on the accumulator or a memory byte, and that it has no other: the accumulator form
takes 2 cycles and makes no bus access. -/
def Claims.modifyForms (s : State) (build : RmwOperand → Instr) (both cmosOnly : List (ModeKind × Byte))
    (w : Byte → Byte) (g : Byte → CpuState) : Prop :=
  (∀ o, (build o).wellFormed s.cfg = (Claims.opcodeOf s.cfg both cmosOnly o.kind).isSome) ∧
  Claims.illegalOnNmos s.cfg (cmosOnly.map (·.2)) ∧
  (∀ op, Claims.opcodeOf s.cfg both cmosOnly .acc = some op →
    Claims.coded s.cfg (build .acc) [op] ∧
    exec (build .acc) s = .next (Claims.after s op 1 2 { g s.cpu.a with a := w s.cpu.a } s.bus)) ∧
  ∀ m op, Claims.opcodeOf s.cfg both cmosOnly m.kind = some op → Claims.modifies s (build (.mem m)) m op w g

/-- An instruction of one byte that touches registers alone: it always completes and makes no bus access. -/
def Claims.registers (s : State) (i : Instr) (op : Byte) (cost : Nat) (cpu : CpuState) : Prop :=
  Claims.coded s.cfg i [op] ∧ exec i s = .next (Claims.after s op 1 cost cpu s.bus)

/-- The registers with N and Z from a value (R19). -/
def Claims.nz (cpu : CpuState) (v : Byte) : CpuState := { cpu with n := v.getLsbD 7, z := decide (v = 0#8) }

/-- R170 to R172. -/
def Obligations.LoadsFillTheirRegister : Prop :=
  ∀ s : State, Claims.fetchFaults s ∧
    Claims.readForms s .lda
      [(.imm, 0xA9), (.zp, 0xA5), (.zpx, 0xB5), (.abs, 0xAD), (.absx, 0xBD), (.absy, 0xB9), (.izx, 0xA1), (.izy, 0xB1)]
      [(.zpi, 0xB2)] 0 (fun _ m => { Claims.nz s.cpu m with a := m }) ∧
    Claims.readForms s .ldx [(.imm, 0xA2), (.zp, 0xA6), (.zpy, 0xB6), (.abs, 0xAE), (.absy, 0xBE)]
      [] 0 (fun _ m => { Claims.nz s.cpu m with x := m }) ∧
    Claims.readForms s .ldy [(.imm, 0xA0), (.zp, 0xA4), (.zpx, 0xB4), (.abs, 0xAC), (.absx, 0xBC)]
      [] 0 (fun _ m => { Claims.nz s.cpu m with y := m })

/-- R173 to R176. -/
def Obligations.StoresWriteTheirRegister : Prop :=
  ∀ s : State, Claims.fetchFaults s ∧
    Claims.storeForms s .sta
      [(.zp, 0x85), (.zpx, 0x95), (.abs, 0x8D), (.absx, 0x9D), (.absy, 0x99), (.izx, 0x81), (.izy, 0x91)]
      [(.zpi, 0x92)] s.cpu.a ∧
    Claims.storeForms s .stx [(.zp, 0x86), (.zpy, 0x96), (.abs, 0x8E)] [] s.cpu.x ∧
    Claims.storeForms s .sty [(.zp, 0x84), (.zpx, 0x94), (.abs, 0x8C)] [] s.cpu.y ∧
    Claims.storeForms s .stz [] [(.zp, 0x64), (.zpx, 0x74), (.abs, 0x9C), (.absx, 0x9E)] 0x00#8

/-- R180 to R185. -/
def Obligations.TransfersCopyOneRegister : Prop :=
  ∀ s : State, Claims.fetchFaults s ∧
    Claims.registers s .tax 0xAA#8 2 { Claims.nz s.cpu s.cpu.a with x := s.cpu.a } ∧
    Claims.registers s .tay 0xA8#8 2 { Claims.nz s.cpu s.cpu.a with y := s.cpu.a } ∧
    Claims.registers s .txa 0x8A#8 2 { Claims.nz s.cpu s.cpu.x with a := s.cpu.x } ∧
    Claims.registers s .tya 0x98#8 2 { Claims.nz s.cpu s.cpu.y with a := s.cpu.y } ∧
    Claims.registers s .tsx 0xBA#8 2 { Claims.nz s.cpu s.cpu.sp with x := s.cpu.sp } ∧
    Claims.registers s .txs 0x9A#8 2 { s.cpu with sp := s.cpu.x }

/-- The registers after ADC or SBC: A and N, V, Z, C from the adder. -/
def Claims.alu (cpu : CpuState) (o : AluResult) : CpuState :=
  { cpu with a := o.r, n := o.n, v := o.v, z := o.z, c := o.c }

/-- R196: D = 1, and the core is NMOS or has CMOS_DECIMAL. -/
def Claims.decimal (s : State) : Bool := s.cpu.d && (decide (s.cfg.variant = .nmos) || s.cfg.cmosDecimal)

/-- R194 to R197: ADC and SBC use the decimal sequences exactly when R196 says so, and on CMOS take one cycle more
then. -/
def Obligations.AdcAndSbcAddAndSubtract : Prop :=
  ∀ s : State, Claims.fetchFaults s ∧
    Claims.readForms s .adc
      [(.imm, 0x69), (.zp, 0x65), (.zpx, 0x75), (.abs, 0x6D), (.absx, 0x7D), (.absy, 0x79), (.izx, 0x61), (.izy, 0x71)]
      [(.zpi, 0x72)] (if Claims.decimal s && s.cfg.isCmos then 1 else 0)
      (fun _ m => Claims.alu s.cpu
        (if Claims.decimal s then addDecimal s.cfg.variant s.cpu.a m s.cpu.c else addBinary s.cpu.a m s.cpu.c)) ∧
    Claims.readForms s .sbc
      [(.imm, 0xE9), (.zp, 0xE5), (.zpx, 0xF5), (.abs, 0xED), (.absx, 0xFD), (.absy, 0xF9), (.izx, 0xE1), (.izy, 0xF1)]
      [(.zpi, 0xF2)] (if Claims.decimal s && s.cfg.isCmos then 1 else 0)
      (fun _ m => Claims.alu s.cpu
        (if Claims.decimal s then subDecimal s.cfg.variant s.cpu.a m s.cpu.c else subBinary s.cpu.a m s.cpu.c))

/-- R210 and R211. -/
def Obligations.IncAndDecChangeMemoryOrA : Prop :=
  ∀ s : State, Claims.fetchFaults s ∧
    Claims.modifyForms s .inc [(.zp, 0xE6), (.zpx, 0xF6), (.abs, 0xEE), (.absx, 0xFE)] [(.acc, 0x1A)]
      (fun m => BitVec.ofNat 8 (m.toNat + 1)) (fun m => Claims.nz s.cpu (BitVec.ofNat 8 (m.toNat + 1))) ∧
    Claims.modifyForms s .dec [(.zp, 0xC6), (.zpx, 0xD6), (.abs, 0xCE), (.absx, 0xDE)] [(.acc, 0x3A)]
      (fun m => BitVec.ofNat 8 (m.toNat + 255)) (fun m => Claims.nz s.cpu (BitVec.ofNat 8 (m.toNat + 255)))

/-- R212 to R215. -/
def Obligations.IndexRegistersCountUpAndDown : Prop :=
  ∀ s : State, Claims.fetchFaults s ∧
    Claims.registers s .inx 0xE8#8 2 { Claims.nz s.cpu (s.cpu.x + 1#8) with x := s.cpu.x + 1#8 } ∧
    Claims.registers s .iny 0xC8#8 2 { Claims.nz s.cpu (s.cpu.y + 1#8) with y := s.cpu.y + 1#8 } ∧
    Claims.registers s .dex 0xCA#8 2 { Claims.nz s.cpu (s.cpu.x - 1#8) with x := s.cpu.x - 1#8 } ∧
    Claims.registers s .dey 0x88#8 2 { Claims.nz s.cpu (s.cpu.y - 1#8) with y := s.cpu.y - 1#8 }

/-- R220 to R223, with the results as numbers: each shifts by one bit, C takes the bit shifted out, and ROL and ROR
bring the old C in. -/
def Obligations.ShiftsAndRotatesByOneBit : Prop :=
  ∀ s : State, Claims.fetchFaults s ∧
    Claims.modifyForms s .asl [(.acc, 0x0A), (.zp, 0x06), (.zpx, 0x16), (.abs, 0x0E), (.absx, 0x1E)] []
      (fun m => BitVec.ofNat 8 (m.toNat * 2))
      (fun m => { Claims.nz s.cpu (BitVec.ofNat 8 (m.toNat * 2)) with c := m.getLsbD 7 }) ∧
    Claims.modifyForms s .lsr [(.acc, 0x4A), (.zp, 0x46), (.zpx, 0x56), (.abs, 0x4E), (.absx, 0x5E)] []
      (fun m => BitVec.ofNat 8 (m.toNat / 2))
      (fun m => { Claims.nz s.cpu (BitVec.ofNat 8 (m.toNat / 2)) with n := false, c := m.getLsbD 0 }) ∧
    Claims.modifyForms s .rol [(.acc, 0x2A), (.zp, 0x26), (.zpx, 0x36), (.abs, 0x2E), (.absx, 0x3E)] []
      (fun m => BitVec.ofNat 8 (m.toNat * 2 + s.cpu.c.toNat))
      (fun m => { Claims.nz s.cpu (BitVec.ofNat 8 (m.toNat * 2 + s.cpu.c.toNat)) with c := m.getLsbD 7 }) ∧
    Claims.modifyForms s .ror [(.acc, 0x6A), (.zp, 0x66), (.zpx, 0x76), (.abs, 0x6E), (.absx, 0x7E)] []
      (fun m => BitVec.ofNat 8 (m.toNat / 2 + s.cpu.c.toNat * 128))
      (fun m => { Claims.nz s.cpu (BitVec.ofNat 8 (m.toNat / 2 + s.cpu.c.toNat * 128)) with
        n := s.cpu.c, c := m.getLsbD 0 })

/-- R230 to R232. -/
def Obligations.LogicalInstructionsCombineAWithTheOperand : Prop :=
  ∀ s : State, Claims.fetchFaults s ∧
    Claims.readForms s .and
      [(.imm, 0x29), (.zp, 0x25), (.zpx, 0x35), (.abs, 0x2D), (.absx, 0x3D), (.absy, 0x39), (.izx, 0x21), (.izy, 0x31)]
      [(.zpi, 0x32)] 0 (fun _ m => { Claims.nz s.cpu (s.cpu.a &&& m) with a := s.cpu.a &&& m }) ∧
    Claims.readForms s .ora
      [(.imm, 0x09), (.zp, 0x05), (.zpx, 0x15), (.abs, 0x0D), (.absx, 0x1D), (.absy, 0x19), (.izx, 0x01), (.izy, 0x11)]
      [(.zpi, 0x12)] 0 (fun _ m => { Claims.nz s.cpu (s.cpu.a ||| m) with a := s.cpu.a ||| m }) ∧
    Claims.readForms s .eor
      [(.imm, 0x49), (.zp, 0x45), (.zpx, 0x55), (.abs, 0x4D), (.absx, 0x5D), (.absy, 0x59), (.izx, 0x41), (.izy, 0x51)]
      [(.zpi, 0x52)] 0 (fun _ m => { Claims.nz s.cpu (s.cpu.a ^^^ m) with a := s.cpu.a ^^^ m })

/-- The registers after `Compare(r, m)` (R240): N, Z and C only. -/
def Claims.compared (cpu : CpuState) (r m : Byte) : CpuState :=
  { cpu with
    n := (BitVec.ofNat 8 (r.toNat + 256 - m.toNat)).getLsbD 7, z := decide (r = m), c := decide (m.toNat ≤ r.toNat) }

/-- R241 to R243. -/
def Obligations.ComparesSetFlagsOnly : Prop :=
  ∀ s : State, Claims.fetchFaults s ∧
    Claims.readForms s .cmp
      [(.imm, 0xC9), (.zp, 0xC5), (.zpx, 0xD5), (.abs, 0xCD), (.absx, 0xDD), (.absy, 0xD9), (.izx, 0xC1), (.izy, 0xD1)]
      [(.zpi, 0xD2)] 0 (fun _ m => Claims.compared s.cpu s.cpu.a m) ∧
    Claims.readForms s .cpx [(.imm, 0xE0), (.zp, 0xE4), (.abs, 0xEC)] [] 0
      (fun _ m => Claims.compared s.cpu s.cpu.x m) ∧
    Claims.readForms s .cpy [(.imm, 0xC0), (.zp, 0xC4), (.abs, 0xCC)] [] 0
      (fun _ m => Claims.compared s.cpu s.cpu.y m)

/-- R244: Z from A and M; N and V are bits 7 and 6 of M in the memory forms, and unchanged in the immediate form. -/
def Obligations.BitTestsTheOperand : Prop :=
  ∀ s : State, Claims.fetchFaults s ∧
    Claims.readForms s .bit [(.zp, 0x24), (.abs, 0x2C)] [(.imm, 0x89), (.zpx, 0x34), (.absx, 0x3C)] 0
      (fun o m =>
        if o.kind = .imm then { s.cpu with z := decide (s.cpu.a &&& m = 0#8) }
        else { s.cpu with z := decide (s.cpu.a &&& m = 0#8), n := m.getLsbD 7, v := m.getLsbD 6 })

/-- The forms of TSB and TRB: none on NMOS, where the opcodes are illegal, zp in 5 cycles and abs in 6 on CMOS. -/
def Claims.testForms (s : State) (build : MemMode → Instr) (zp abs : Byte) (w : Byte → Byte) : Prop :=
  (∀ m, (build m).wellFormed s.cfg = (Claims.opcodeOf s.cfg [] [(.zp, zp), (.abs, abs)] m.kind).isSome) ∧
  Claims.illegalOnNmos s.cfg [zp, abs] ∧
  ∀ m op, Claims.opcodeOf s.cfg [] [(.zp, zp), (.abs, abs)] m.kind = some op →
    (build m).baseCycles s.cfg = (if m.kind = .zp then 5 else 6) ∧
    Claims.modifies s (build m) m op w (fun v => { s.cpu with z := decide (s.cpu.a &&& v = 0#8) })

/-- R245 and R246: Z from the byte read, and the bits of A set in it or cleared. -/
def Obligations.TsbAndTrbChangeTheBitsOfA : Prop :=
  ∀ s : State, Claims.fetchFaults s ∧
    Claims.testForms s .tsb 0x04#8 0x0C#8 (fun v => v ||| s.cpu.a) ∧
    Claims.testForms s .trb 0x14#8 0x1C#8 (fun v => v &&& (s.cpu.a ^^^ 0xFF#8))

/-- An optional bit opcode (R247, R248, R271, R272): without CMOS_BIT_OPS a one-byte no-op on CMOS, and on NMOS
illegal. -/
def Claims.bitOpcode (cfg : Config) (op : Byte) : Prop :=
  (cfg.isCmos = true → cfg.cmosBitOps = false → ∀ rest, decode cfg (op :: rest) = .ok (.nopStar op .one) rest) ∧
  Claims.illegalOnNmos cfg [op]

/-- R247 and R248: bit b of the zero-page byte is cleared or set, no other bit and no flag changes, in 5 cycles. -/
def Obligations.RmbAndSmbChangeOneBit : Prop :=
  ∀ (s : State) (b : Fin 8) (zp : Byte), Claims.fetchFaults s ∧
    Claims.bitOpcode s.cfg (BitVec.ofNat 8 (0x07 + 0x10 * b.val)) ∧
    Claims.bitOpcode s.cfg (BitVec.ofNat 8 (0x87 + 0x10 * b.val)) ∧
    (s.cfg.isCmos = true → s.cfg.cmosBitOps = true →
      ∃ reset set : Byte → Byte,
        (∀ v k, k < 8 → (reset v).getLsbD k = (if k = b.val then false else v.getLsbD k)) ∧
        (∀ v k, k < 8 → (set v).getLsbD k = (if k = b.val then true else v.getLsbD k)) ∧
        (Instr.rmb b zp).baseCycles s.cfg = 5 ∧ (Instr.smb b zp).baseCycles s.cfg = 5 ∧
        (Instr.rmb b zp).pagePenalty s.cfg = false ∧ (Instr.smb b zp).pagePenalty s.cfg = false ∧
        Claims.modifies s (Instr.rmb b zp) (.zp zp) (BitVec.ofNat 8 (0x07 + 0x10 * b.val)) reset (fun _ => s.cpu) ∧
        Claims.modifies s (Instr.smb b zp) (.zp zp) (BitVec.ofNat 8 (0x87 + 0x10 * b.val)) set (fun _ => s.cpu))

/-- The state after a branch instruction of `length` bytes and `base` cycles, with offset `off` (R156, R157, R162): the
next instruction in sequence, or the target at one more cycle, two if it lies on another page. -/
def Claims.branched (s : State) (op : Byte) (length base : Nat) (off : Byte) (taken : Bool) (b : Bus) (t : State) :
    Prop :=
  ∃ next target : Addr,
    next.toNat = (s.cpu.pc.toNat + length) % 65536 ∧
    (target.toNat : Int) = ((next.toNat : Int) + off.toInt) % 65536 ∧
    t = { s with
      cpu := { s.cpu with
        pc := if taken then target else next
        ir := op
        cycles := s.cpu.cycles + base +
          (if taken then (if target.toNat / 256 = next.toNat / 256 then 1 else 2) else 0) }
      bus := b }

/-- A relative branch on a condition (R260). -/
def Claims.branches (s : State) (i : Instr) (op off : Byte) (cond : Bool) : Prop :=
  Claims.coded s.cfg i [op, off] ∧ ∃ t, exec i s = .next t ∧ Claims.branched s op 2 2 off cond s.bus t

/-- R260 and R262 to R270: which flag each branch tests, and where it goes, at which cost; it writes no flag and makes
no data access. -/
def Obligations.BranchesTestOneFlag : Prop :=
  ∀ (s : State) (off : Byte), Claims.fetchFaults s ∧
    Claims.branches s (.bpl off) 0x10#8 off (!s.cpu.n) ∧ Claims.branches s (.bmi off) 0x30#8 off s.cpu.n ∧
    Claims.branches s (.bvc off) 0x50#8 off (!s.cpu.v) ∧ Claims.branches s (.bvs off) 0x70#8 off s.cpu.v ∧
    Claims.branches s (.bcc off) 0x90#8 off (!s.cpu.c) ∧ Claims.branches s (.bcs off) 0xB0#8 off s.cpu.c ∧
    Claims.branches s (.bne off) 0xD0#8 off (!s.cpu.z) ∧ Claims.branches s (.beq off) 0xF0#8 off s.cpu.z ∧
    (s.cfg.isCmos = true → Claims.branches s (.bra off) 0x80#8 off true) ∧ Claims.illegalOnNmos s.cfg [0x80#8]

/-- A branch on a bit of a zero-page byte (R271, R272). -/
def Claims.bitBranches (s : State) (i : Instr) (op zp off : Byte) (taken : Byte → Bool) : Prop :=
  Claims.coded s.cfg i [op, zp, off] ∧
  (∀ v b, memRead (BitVec.ofNat 16 zp.toNat) s.bus = .ok v b →
    Claims.sameBytes s.bus b ∧ ∃ t, exec i s = .next t ∧ Claims.branched s op 3 5 off (taken v) b t) ∧
  (∀ f b, memRead (BitVec.ofNat 16 zp.toNat) s.bus = .raised f b →
    exec i s = .next (s.abandon f b) ∧ Claims.readFault f ∧ Claims.sameBytes s.bus b)

/-- R271 and R272. -/
def Obligations.BbrAndBbsTestOneBit : Prop :=
  ∀ (s : State) (b : Fin 8) (zp off : Byte), Claims.fetchFaults s ∧
    Claims.bitOpcode s.cfg (BitVec.ofNat 8 (0x0F + 0x10 * b.val)) ∧
    Claims.bitOpcode s.cfg (BitVec.ofNat 8 (0x8F + 0x10 * b.val)) ∧
    (s.cfg.isCmos = true → s.cfg.cmosBitOps = true →
      Claims.bitBranches s (Instr.bbr b zp off) (BitVec.ofNat 8 (0x0F + 0x10 * b.val)) zp off (fun v => !v.getLsbD b.val) ∧
      Claims.bitBranches s (Instr.bbs b zp off) (BitVec.ofNat 8 (0x8F + 0x10 * b.val)) zp off (fun v => v.getLsbD b.val))

/-- The state after an instruction that loads PC. -/
def Claims.jumped (s : State) (op : Byte) (cost : Nat) (pc : Addr) (sp : Byte) (b : Bus) : State :=
  { s with cpu := { s.cpu with pc := pc, sp := sp, ir := op, cycles := s.cpu.cycles + cost }, bus := b }

/-- R275: JMP loads PC with the effective address and makes no access at the target. -/
def Obligations.JmpLoadsThePc : Prop :=
  ∀ (s : State) (w : Addr), Claims.fetchFaults s ∧
    Claims.coded s.cfg (.jmp (.abs w)) [0x4C#8, lo8 w, hi8 w] ∧
    exec (.jmp (.abs w)) s = .next (Claims.jumped s 0x4C#8 3 w s.cpu.sp s.bus) ∧
    Claims.coded s.cfg (.jmp (.ind w)) [0x6C#8, lo8 w, hi8 w] ∧
    (∀ r b, resolve s.cfg s.cpu (.ind w) s.bus = .ok r b → Claims.sameBytes s.bus b ∧
      exec (.jmp (.ind w)) s =
        .next (Claims.jumped s 0x6C#8 (if s.cfg.isCmos then 6 else 5) r.ea s.cpu.sp b)) ∧
    (∀ f b, resolve s.cfg s.cpu (.ind w) s.bus = .raised f b →
      exec (.jmp (.ind w)) s = .next (s.abandon f b) ∧ Claims.readFault f ∧ Claims.sameBytes s.bus b) ∧
    (s.cfg.isCmos = true →
      Claims.coded s.cfg (.jmp (.iax w)) [0x7C#8, lo8 w, hi8 w] ∧
      (∀ r b, resolve s.cfg s.cpu (.iax w) s.bus = .ok r b → Claims.sameBytes s.bus b ∧
        exec (.jmp (.iax w)) s = .next (Claims.jumped s 0x7C#8 6 r.ea s.cpu.sp b)) ∧
      (∀ f b, resolve s.cfg s.cpu (.iax w) s.bus = .raised f b →
        exec (.jmp (.iax w)) s = .next (s.abandon f b) ∧ Claims.readFault f ∧ Claims.sameBytes s.bus b)) ∧
    Claims.illegalOnNmos s.cfg [0x7C#8]

/-- R277 and R278: JSR pushes the address of its last byte, high byte first, and jumps; RTS pulls it, low byte first,
and adds 1. A fault on a later access leaves the earlier push written. -/
def Obligations.JsrAndRtsCallAndReturn : Prop :=
  ∀ (s : State) (w : Addr), Claims.fetchFaults s ∧
    Claims.coded s.cfg (.jsr w) [0x20#8, lo8 w, hi8 w] ∧
    (∀ b, Claims.writesInOrder
        [(stackAddr s.cpu.sp, hi8 (s.cpu.pc + 2#16)), (stackAddr (s.cpu.sp - 1#8), lo8 (s.cpu.pc + 2#16))] s.bus =
          .ok () b →
      exec (.jsr w) s = .next (Claims.jumped s 0x20#8 6 w (s.cpu.sp - 2#8) b) ∧
      Claims.sameBytesBut [stackAddr s.cpu.sp, stackAddr (s.cpu.sp - 1#8)] s.bus b) ∧
    (∀ f b, Claims.writesInOrder
        [(stackAddr s.cpu.sp, hi8 (s.cpu.pc + 2#16)), (stackAddr (s.cpu.sp - 1#8), lo8 (s.cpu.pc + 2#16))] s.bus =
          .raised f b →
      exec (.jsr w) s = .next (s.abandon f b) ∧
      Claims.writeFault [stackAddr s.cpu.sp, stackAddr (s.cpu.sp - 1#8)] f) ∧
    Claims.coded s.cfg .rts [0x60#8] ∧
    (∀ lo hi b, Claims.readsInOrder [stackAddr (s.cpu.sp + 1#8), stackAddr (s.cpu.sp + 2#8)] s.bus = .ok [lo, hi] b →
      exec .rts s = .next (Claims.jumped s 0x60#8 6 (BitVec.ofNat 16 (hi.toNat * 256 + lo.toNat + 1))
        (s.cpu.sp + 2#8) b) ∧
      Claims.sameBytes s.bus b) ∧
    (∀ f b, Claims.readsInOrder [stackAddr (s.cpu.sp + 1#8), stackAddr (s.cpu.sp + 2#8)] s.bus = .raised f b →
      exec .rts s = .next (s.abandon f b) ∧ Claims.readFault f ∧ Claims.sameBytes s.bus b)

/-- A JSR through a RAM stack and then an RTS come back to the instruction after the JSR, with every register but PC,
IR and cycles as it was (R277, R278). -/
def Obligations.RtsReturnsPastTheJsr : Prop :=
  ∀ (s : State) (w : Addr), s.busWf = true →
    s.bus.writable (stackAddr s.cpu.sp) → s.bus.writable (stackAddr (s.cpu.sp - 1#8)) →
    ∃ t u, exec (.jsr w) s = .next t ∧ exec .rts t = .next u ∧
      u.cpu = { s.cpu with pc := s.cpu.pc + 3#16, ir := 0x60#8, cycles := s.cpu.cycles + 12 } ∧
      Claims.sameBytesBut [stackAddr s.cpu.sp, stackAddr (s.cpu.sp - 1#8)] s.bus u.bus

/-- A push instruction (file 49 section 1): 3 cycles, one write, SP one less mod 256. -/
def Claims.pushes (s : State) (i : Instr) (op v : Byte) : Prop :=
  Claims.coded s.cfg i [op] ∧
  (∀ b, memWrite (stackAddr s.cpu.sp) v s.bus = .ok () b →
    exec i s = .next (Claims.after s op 1 3 { s.cpu with sp := s.cpu.sp - 1#8 } b) ∧
    Claims.sameBytesBut [stackAddr s.cpu.sp] s.bus b ∧
    (s.bus.writable (stackAddr s.cpu.sp) → Memory.wf s.bus.mem = true → b.peek (stackAddr s.cpu.sp) = some v)) ∧
  (∀ f b, memWrite (stackAddr s.cpu.sp) v s.bus = .raised f b →
    exec i s = .next (s.abandon f b) ∧ Claims.writeFault [stackAddr s.cpu.sp] f ∧ Claims.sameBytes s.bus b)

/-- R290, R291, R294 and R295. -/
def Obligations.PushesStoreTheirByte : Prop :=
  ∀ s : State, Claims.fetchFaults s ∧
    Claims.pushes s .pha 0x48#8 s.cpu.a ∧ Claims.pushes s .php 0x08#8 (s.cpu.packP true) ∧
    (s.cfg.isCmos = true →
      Claims.pushes s .phx 0xDA#8 s.cpu.x ∧ Claims.pushes s .phy 0x5A#8 s.cpu.y) ∧
    Claims.illegalOnNmos s.cfg [0xDA#8, 0x5A#8]

/-- A pull instruction (file 49 section 1): 4 cycles, SP one more mod 256, one read. -/
def Claims.pulls (s : State) (i : Instr) (op : Byte) (f : Byte → CpuState) : Prop :=
  Claims.coded s.cfg i [op] ∧
  (∀ v b, memRead (stackAddr (s.cpu.sp + 1#8)) s.bus = .ok v b →
    exec i s = .next (Claims.after s op 1 4 { f v with sp := s.cpu.sp + 1#8 } b) ∧ Claims.sameBytes s.bus b) ∧
  (∀ fault b, memRead (stackAddr (s.cpu.sp + 1#8)) s.bus = .raised fault b →
    exec i s = .next (s.abandon fault b) ∧ Claims.readFault fault ∧ Claims.sameBytes s.bus b)

/-- The registers with all flags from a status byte (R46). -/
def Claims.flagsFrom (cpu : CpuState) (p : Byte) : CpuState :=
  { cpu with
    n := p.getLsbD 7, v := p.getLsbD 6, b := p.getLsbD 4, d := p.getLsbD 3,
    i := p.getLsbD 2, z := p.getLsbD 1, c := p.getLsbD 0 }

/-- The I that an instruction leaves governs the very next boundary (R341): an IRQ asserted there is taken when I is 0,
and waits when it is 1. -/
def Claims.boundaryAfter (s : State) (i : Instr) (disable : Bool) : Prop :=
  s.cpu.run = .running → s.cpu.nmiPending = false → s.irqLine = true →
    ∃ t, exec i s = .next t ∧ step t = if disable then instructionStep t else .next (takeInterrupt .irq t)

/-- R292, R293, R296 and R297. -/
def Obligations.PullsFillTheirRegister : Prop :=
  ∀ s : State, Claims.fetchFaults s ∧
    Claims.pulls s .pla 0x68#8 (fun v => { Claims.nz s.cpu v with a := v }) ∧
    Claims.pulls s .plp 0x28#8 (fun v => Claims.flagsFrom s.cpu v) ∧
    (∀ v b, memRead (stackAddr (s.cpu.sp + 1#8)) s.bus = .ok v b → Claims.boundaryAfter s .plp (v.getLsbD 2)) ∧
    (s.cfg.isCmos = true →
      Claims.pulls s .plx 0xFA#8 (fun v => { Claims.nz s.cpu v with x := v }) ∧
      Claims.pulls s .ply 0x7A#8 (fun v => { Claims.nz s.cpu v with y := v })) ∧
    Claims.illegalOnNmos s.cfg [0xFA#8, 0x7A#8]

/-- R300 to R306: each writes exactly one flag, and CLI and SEI govern the very next boundary. -/
def Obligations.FlagInstructionsWriteOneFlag : Prop :=
  ∀ s : State, Claims.fetchFaults s ∧
    Claims.registers s .clc 0x18#8 2 { s.cpu with c := false } ∧ Claims.registers s .sec 0x38#8 2 { s.cpu with c := true } ∧
    Claims.registers s .cli 0x58#8 2 { s.cpu with i := false } ∧ Claims.registers s .sei 0x78#8 2 { s.cpu with i := true } ∧
    Claims.boundaryAfter s .cli false ∧ Claims.boundaryAfter s .sei true ∧
    Claims.registers s .clv 0xB8#8 2 { s.cpu with v := false } ∧
    Claims.registers s .cld 0xD8#8 2 { s.cpu with d := false } ∧ Claims.registers s .sed 0xF8#8 2 { s.cpu with d := true }

/-- R310, and R321 with R121: NOP, and the CMOS undefined opcodes with the lengths and counts of the table of R121; only
PC, IR and cycles change. -/
def Obligations.NoOperationsChangePcAndCyclesOnly : Prop :=
  ∀ s : State, Claims.fetchFaults s ∧ Claims.registers s .nop 0xEA#8 2 s.cpu ∧
    (s.cfg.isCmos = true →
      (∀ op ∈ [0x02#8, 0x22#8, 0x42#8, 0x62#8, 0x82#8, 0xC2#8, 0xE2#8, 0x44#8, 0x54#8, 0xD4#8, 0xF4#8], ∀ b1,
        Claims.coded s.cfg (.nopStar op (.two b1)) [op, b1] ∧
        exec (.nopStar op (.two b1)) s = .next (Claims.after s op 2
          (if op = 0x44#8 then 3 else if op ∈ [0x54#8, 0xD4#8, 0xF4#8] then 4 else 2) s.cpu s.bus)) ∧
      (∀ op ∈ [0x5C#8, 0xDC#8, 0xFC#8], ∀ b1 b2,
        Claims.coded s.cfg (.nopStar op (.three b1 b2)) [op, b1, b2] ∧
        exec (.nopStar op (.three b1 b2)) s =
          .next (Claims.after s op 3 (if op = 0x5C#8 then 8 else 4) s.cpu s.bus)) ∧
      (∀ op : Byte,
        (op.toNat % 16 = 0x3 ∨
          (op.toNat % 16 = 0xB ∧ ¬ (s.cfg.cmosWaiStp = true ∧ (op = 0xCB#8 ∨ op = 0xDB#8))) ∨
          ((op.toNat % 16 = 0x7 ∨ op.toNat % 16 = 0xF) ∧ s.cfg.cmosBitOps = false)) →
        Claims.coded s.cfg (.nopStar op .one) [op] ∧
        exec (.nopStar op .one) s = .next (Claims.after s op 1 1 s.cpu s.bus)))

/-- The three pushes of the entry to a handler: the return address, high byte first, and the status byte. -/
def Claims.entryPushes (cpu : CpuState) (ret : Addr) (brk : Bool) : List (Addr × Byte) :=
  [(stackAddr cpu.sp, hi8 ret), (stackAddr (cpu.sp - 1#8), lo8 ret), (stackAddr (cpu.sp - 2#8), cpu.packP brk)]

/-- Where they go. -/
def Claims.entrySlots (cpu : CpuState) : List Addr :=
  [stackAddr cpu.sp, stackAddr (cpu.sp - 1#8), stackAddr (cpu.sp - 2#8)]

/-- The registers that an entry leaves: SP three less, I set, D clear on CMOS, PC from the vector. -/
def Claims.entered (cfg : Config) (cpu : CpuState) (lo hi : Byte) : CpuState :=
  { cpu with
    sp := cpu.sp - 3#8, i := true, d := if cfg.isCmos then false else cpu.d,
    pc := BitVec.ofNat 16 (hi.toNat * 256 + lo.toNat) }

/-- R314: BRK pushes PC past its padding byte and P with B = 1, and vectors through 0xFFFE, whatever I is. -/
def Obligations.BrkEntersTheIrqHandler : Prop :=
  ∀ (s : State) (pad : Byte), Claims.fetchFaults s ∧ Claims.coded s.cfg (.brk pad) [0x00#8, pad] ∧
    (∀ b, Claims.writesInOrder (Claims.entryPushes s.cpu (s.cpu.pc + 2#16) true) s.bus = .ok () b →
      Claims.sameBytesBut (Claims.entrySlots s.cpu) s.bus b ∧
      (∀ lo hi b', Claims.readsInOrder [0xFFFE#16, 0xFFFF#16] b = .ok [lo, hi] b' →
        exec (.brk pad) s = .next { s with
          cpu := { Claims.entered s.cfg s.cpu lo hi with ir := 0x00#8, cycles := s.cpu.cycles + 7 }, bus := b' } ∧
        Claims.sameBytes b b') ∧
      (∀ f b', Claims.readsInOrder [0xFFFE#16, 0xFFFF#16] b = .raised f b' →
        exec (.brk pad) s = .next (s.abandon f b') ∧ Claims.readFault f ∧ Claims.sameBytes b b')) ∧
    (∀ f b, Claims.writesInOrder (Claims.entryPushes s.cpu (s.cpu.pc + 2#16) true) s.bus = .raised f b →
      exec (.brk pad) s = .next (s.abandon f b) ∧ Claims.writeFault (Claims.entrySlots s.cpu) f)

/-- R315: RTI pulls P, then PC low and high, and adds nothing; the restored I governs the very next boundary. -/
def Obligations.RtiRestoresPAndPc : Prop :=
  ∀ s : State, Claims.fetchFaults s ∧ Claims.coded s.cfg .rti [0x40#8] ∧
    (∀ p lo hi b, Claims.readsInOrder
        [stackAddr (s.cpu.sp + 1#8), stackAddr (s.cpu.sp + 2#8), stackAddr (s.cpu.sp + 3#8)] s.bus =
          .ok [p, lo, hi] b →
      exec .rti s = .next { s with
        cpu := { Claims.flagsFrom s.cpu p with
          sp := s.cpu.sp + 3#8, pc := BitVec.ofNat 16 (hi.toNat * 256 + lo.toNat), ir := 0x40#8,
          cycles := s.cpu.cycles + 6 }
        bus := b } ∧
      Claims.boundaryAfter s .rti (p.getLsbD 2) ∧ Claims.sameBytes s.bus b) ∧
    (∀ f b, Claims.readsInOrder
        [stackAddr (s.cpu.sp + 1#8), stackAddr (s.cpu.sp + 2#8), stackAddr (s.cpu.sp + 3#8)] s.bus = .raised f b →
      exec .rti s = .next (s.abandon f b) ∧ Claims.readFault f ∧ Claims.sameBytes s.bus b)

/-- A core that waits (R316): a step without an input does nothing, an input that can be served is taken by the next
step, and an IRQ with I = 1 only ends the wait. -/
def Claims.waits (t : State) : Prop :=
  (t.cpu.nmiPending = false → t.irqLine = false → step t = .next t) ∧
  (t.cpu.nmiPending = true → step t = .next (takeInterrupt .nmi t)) ∧
  (t.cpu.nmiPending = false → t.irqLine = true → t.cpu.i = false → step t = .next (takeInterrupt .irq t)) ∧
  (t.cpu.nmiPending = false → t.irqLine = true → t.cpu.i = true →
    step t = .next { t with cpu := { t.cpu with run := .running } })

/-- A core that has stopped (R317): no step and no input changes it, and an NMI event is latched and not taken. -/
def Claims.stops (t : State) : Prop :=
  step t = .next t ∧ step (nmi t) = .next (nmi t) ∧ (nmi t).cpu = { t.cpu with nmiPending := true } ∧
  ∀ level, step (setIrq level t) = .next (setIrq level t)

/-- R316 and R317: WAI and STP change the run state, with IR, PC and cycles, and what the steps after them do. -/
def Obligations.WaiAndStpChangeTheRunState : Prop :=
  ∀ s : State, Claims.fetchFaults s ∧
    (s.cfg.isCmos = true → s.cfg.cmosWaiStp = true →
      Claims.registers s .wai 0xCB#8 3 { s.cpu with run := .waiting } ∧
      Claims.registers s .stp 0xDB#8 3 { s.cpu with run := .stopped }) ∧
    (∀ t, exec .wai s = .next t → Claims.waits t) ∧ (∀ t, exec .stp s = .next t → Claims.stops t) ∧
    (s.cfg.isCmos = true → s.cfg.cmosWaiStp = false →
      ∀ op ∈ [0xCB#8, 0xDB#8], ∀ rest, decode s.cfg (op :: rest) = .ok (.nopStar op .one) rest) ∧
    Claims.illegalOnNmos s.cfg [0xCB#8, 0xDB#8]

/-- R320 with R120: the 105 illegal opcodes of NMOS raise IllegalOpcode after the opcode fetch; every register is as at
the start of the step, and on CMOS no opcode is illegal. -/
def Obligations.IllegalOpcodesFaultOnNmos : Prop :=
  (nmosIllegal.length = 105 ∧ nmosIllegal.Nodup) ∧
  ∀ (s : State) (op : Byte) (b : Bus), sample s.cpu s.irqLine = .instruction → memRead s.cpu.pc s.bus = .ok op b →
    (s.cfg.isCmos = false → op ∈ nmosIllegal →
      Claims.coded s.cfg (.illegal op) [op] ∧
      exec (.illegal op) { s with bus := b } = .next (s.abandon (.illegalOpcode op s.cpu.pc) b) ∧
      step s = .next (s.abandon (.illegalOpcode op s.cpu.pc) b) ∧ Claims.sameBytes s.bus b) ∧
    (∀ op', ∀ rest i more, (s.cfg.isCmos = true ∨ op' ∉ nmosIllegal) → decode s.cfg (op' :: rest) = .ok i more →
      i ≠ .illegal op')

/-! ## The step -/

/-- A step runs the decoded instruction: when the core samples no interrupt and the bytes at PC, PC + 1, ... are those
that the decoder reads as `i`, the step is the meaning of `i` on that state; the meaning itself moves PC past the
bytes. -/
def Obligations.StepRunsTheDecodedInstruction : Prop :=
  ∀ (s : State) (i : Instr) (bytes rest : List Byte),
    s.cpu.run = .running → s.cpu.nmiPending = false → (s.irqLine = false ∨ s.cpu.i = true) →
    decode s.cfg bytes = .ok i rest →
    (∀ k, k < bytes.length - rest.length → s.bus.peek (s.cpu.pc + BitVec.ofNat 16 k) = bytes[k]?) →
    step s = exec i s

/-- R341, R345, R346 and R336, as R370 puts them together: what a step does in each run state, by the interrupt
inputs. -/
def Obligations.StepSamplesTheInputs : Prop :=
  ∀ s : State,
    (s.cpu.run = .running → s.cpu.nmiPending = true → step s = .next (takeInterrupt .nmi s)) ∧
    (s.cpu.run = .running → s.cpu.nmiPending = false → s.irqLine = true → s.cpu.i = false →
      step s = .next (takeInterrupt .irq s)) ∧
    (s.cpu.run = .running → s.cpu.nmiPending = false → (s.irqLine = false ∨ s.cpu.i = true) →
      step s = instructionStep s) ∧
    (s.cpu.run = .waiting → s.cpu.nmiPending = false → s.irqLine = false → step s = .next s) ∧
    (s.cpu.run = .waiting → s.cpu.nmiPending = true → step s = .next (takeInterrupt .nmi s)) ∧
    (s.cpu.run = .waiting → s.cpu.nmiPending = false → s.irqLine = true → s.cpu.i = false →
      step s = .next (takeInterrupt .irq s)) ∧
    (s.cpu.run = .waiting → s.cpu.nmiPending = false → s.irqLine = true → s.cpu.i = true →
      step s = .next { s with cpu := { s.cpu with run := .running } }) ∧
    (s.cpu.run = .stopped → step s = .next s) ∧
    (∀ f, s.cpu.run = .faulted f → step s = .fault f)

/-- R350 to R352: the entry for NMI and for IRQ: the pushes with B = 0, the vector, the latch that NMI entry clears, 7
cycles, no IR; a fault restores every register and the latch. -/
def Obligations.InterruptEntryPushesAndVectors : Prop :=
  ∀ (s : State) (src : Source) (lo hi : Addr), lo = (if src = .nmi then 0xFFFA#16 else 0xFFFE#16) →
    hi = (if src = .nmi then 0xFFFB#16 else 0xFFFF#16) →
    (∀ b, Claims.writesInOrder (Claims.entryPushes s.cpu s.cpu.pc false) s.bus = .ok () b →
      Claims.sameBytesBut (Claims.entrySlots s.cpu) s.bus b ∧
      (∀ l h b', Claims.readsInOrder [lo, hi] b = .ok [l, h] b' →
        takeInterrupt src s = { s with
          cpu := { Claims.entered s.cfg s.cpu l h with
            nmiPending := if src = .nmi then false else s.cpu.nmiPending
            run := .running, cycles := s.cpu.cycles + 7 }
          bus := b' } ∧
        Claims.sameBytes b b') ∧
      (∀ f b', Claims.readsInOrder [lo, hi] b = .raised f b' →
        takeInterrupt src s = s.abandon f b' ∧ Claims.readFault f ∧ Claims.sameBytes b b')) ∧
    (∀ f b, Claims.writesInOrder (Claims.entryPushes s.cpu s.cpu.pc false) s.bus = .raised f b →
      takeInterrupt src s = s.abandon f b ∧ Claims.writeFault (Claims.entrySlots s.cpu) f)

/-- An RTI at once after the entry to a handler through a RAM stack (BRK, NMI or IRQ) comes back to the saved PC with the
saved flags; the stored B is the pushed one (R314, R315, R350, R354). -/
def Obligations.RtiUndoesTheEntry : Prop :=
  ∀ (s : State), s.busWf = true → (∀ a ∈ Claims.entrySlots s.cpu, s.bus.writable a) →
    (∀ pad t, exec (.brk pad) s = .next t → t.isFaulted = false →
      ∃ u, exec .rti t = .next u ∧
        u.cpu = { s.cpu with pc := s.cpu.pc + 2#16, b := true, ir := 0x40#8, cycles := s.cpu.cycles + 13 } ∧
        Claims.sameBytesBut (Claims.entrySlots s.cpu) s.bus u.bus) ∧
    (∀ src t, takeInterrupt src s = t → t.isFaulted = false →
      ∃ u, exec .rti t = .next u ∧
        u.cpu = { s.cpu with
          b := false, ir := 0x40#8, cycles := s.cpu.cycles + 13, run := .running
          nmiPending := if src = .nmi then false else s.cpu.nmiPending } ∧
        Claims.sameBytesBut (Claims.entrySlots s.cpu) s.bus u.bus)

/-- R335: a step that raises a fault leaves every register of CpuState as at the start of the step, and the run state
Faulted; the configuration and the input line are untouched. -/
def Obligations.FaultsRollBackTheProcessor : Prop :=
  ∀ s t : State, step s = .next t → s.isFaulted = false → t.isFaulted = true →
    ∃ f, t = { s with cpu := { s.cpu with run := .faulted f }, bus := t.bus } ∧ runLegal s.cfg (.faulted f) = true

/-- R336, R346 and R382: a core in Stopped or Faulted stays there whatever the inputs, with NMI events latched, until
reset, which leaves Running or the fault of a vector read. -/
def Obligations.OnlyResetLeavesStoppedAndFaulted : Prop :=
  ∀ s : State, (s.cpu.run = .stopped ∨ s.isFaulted = true) →
    (∀ t, step s = .next t → t = s) ∧
    (∀ f, s.cpu.run = .faulted f → step s = .fault f ∧ step (nmi s) = .fault f) ∧
    (s.cpu.run = .stopped → step (nmi s) = .next (nmi s)) ∧
    (nmi s).cpu = { s.cpu with nmiPending := true } ∧
    (∀ draw, (hostReset draw s).cpu.nmiPending = false ∧
      ((∀ lo hi b, Claims.readsInOrder [0xFFFC#16, 0xFFFD#16] s.bus = .ok [lo, hi] b →
        (hostReset draw s).cpu.run = .running) ∧
       (∀ f b, Claims.readsInOrder [0xFFFC#16, 0xFFFD#16] s.bus = .raised f b →
        (hostReset draw s).cpu.run = .faulted f)))

/-- Every step keeps the invariant of the machine: an address window as R10 wants it, the stored bytes in canonical form,
the registry as R72 wants it, and a run state that the configuration can have (R52, R331). -/
def Obligations.EveryStepKeepsTheInvariant : Prop :=
  ∀ s t : State, s.Inv → step s = .next t → t.Inv

/-- The state after reset has the invariant, and it is what `hostReset` leaves of the standard platform with every draw
zero (the platform and the draws are the model's choice, log 2 to 4). -/
def Obligations.ResetStateHasTheInvariant : Prop :=
  State.reset.Inv ∧
  ∀ s : State, s.cfg = Config.standard → s.irqLine = false → s.bus = Bus.standard →
    hostReset
      { a := 0, x := 0, y := 0, sp := 0, n := false, v := false, b := false, d := false, z := false, c := false
        ir := 0, pc := 0 } s = State.reset

/-- R53 and R100: no step changes the configuration, the input line, or which devices are registered where. -/
def Obligations.NoStepChangesTheConfiguration : Prop :=
  ∀ s t : State, step s = .next t →
    t.cfg = s.cfg ∧ t.irqLine = s.irqLine ∧
    t.bus.registry.map (fun d => (d.id, d.start, d.stop)) = s.bus.registry.map (fun d => (d.id, d.start, d.stop))

/-- The cycle counter never decreases (R49), a step that ends in a fault adds nothing, and no step adds more than the 8
cycles of the longest instruction. -/
def Obligations.CyclesNeverDecrease : Prop :=
  ∀ s t : State, step s = .next t → s.cpu.cycles ≤ t.cpu.cycles ∧ t.cpu.cycles ≤ s.cpu.cycles + 8 ∧
    (t.isFaulted = true → t.cpu.cycles = s.cpu.cycles)

/-- The registers and the memory that an instruction may write (R57), besides PC, IR and cycles. -/
structure Claims.Writes where
  a : Bool := false
  x : Bool := false
  y : Bool := false
  sp : Bool := false
  n : Bool := false
  v : Bool := false
  b : Bool := false
  d : Bool := false
  i : Bool := false
  z : Bool := false
  c : Bool := false
  memory : Bool := false
  run : Bool := false
  /-- The instruction is a "PC load" of R57. -/
  pc : Bool := false

/-- All flags (PLP, RTI). -/
def Claims.Writes.status : Claims.Writes :=
  { n := true, v := true, b := true, d := true, i := true, z := true, c := true }

/-- The column "writes" of the table of R57. -/
def Claims.writes (cfg : Config) : Instr → Claims.Writes
  | .lda _ | .txa | .tya | .and _ | .ora _ | .eor _ => { a := true, n := true, z := true }
  | .ldx _ | .tax | .tsx | .inx | .dex => { x := true, n := true, z := true }
  | .ldy _ | .tay | .iny | .dey => { y := true, n := true, z := true }
  | .sta _ | .stx _ | .sty _ | .stz _ => { memory := true }
  | .txs => { sp := true }
  | .adc _ | .sbc _ => { a := true, n := true, v := true, z := true, c := true }
  | .cmp _ | .cpx _ | .cpy _ => { n := true, z := true, c := true }
  | .bit (.imm _) => { z := true }
  | .bit (.mem _) => { z := true, n := true, v := true }
  | .tsb _ | .trb _ => { memory := true, z := true }
  | .rmb0 _ | .rmb1 _ | .rmb2 _ | .rmb3 _ | .rmb4 _ | .rmb5 _ | .rmb6 _ | .rmb7 _
  | .smb0 _ | .smb1 _ | .smb2 _ | .smb3 _ | .smb4 _ | .smb5 _ | .smb6 _ | .smb7 _ => { memory := true }
  | .inc .acc | .dec .acc => { a := true, n := true, z := true }
  | .inc (.mem _) | .dec (.mem _) => { memory := true, n := true, z := true }
  | .asl .acc | .lsr .acc | .rol .acc | .ror .acc => { a := true, n := true, z := true, c := true }
  | .asl (.mem _) | .lsr (.mem _) | .rol (.mem _) | .ror (.mem _) =>
    { memory := true, n := true, z := true, c := true }
  | .bpl _ | .bmi _ | .bvc _ | .bvs _ | .bcc _ | .bcs _ | .bne _ | .beq _ | .bra _ => { pc := true }
  | .bbr0 _ _ | .bbr1 _ _ | .bbr2 _ _ | .bbr3 _ _ | .bbr4 _ _ | .bbr5 _ _ | .bbr6 _ _ | .bbr7 _ _
  | .bbs0 _ _ | .bbs1 _ _ | .bbs2 _ _ | .bbs3 _ _ | .bbs4 _ _ | .bbs5 _ _ | .bbs6 _ _ | .bbs7 _ _ => { pc := true }
  | .jmp _ => { pc := true }
  | .jsr _ => { memory := true, sp := true, pc := true }
  | .rts => { sp := true, pc := true }
  | .rti => { Claims.Writes.status with sp := true, pc := true }
  | .pha | .phx | .phy | .php => { memory := true, sp := true }
  | .pla => { a := true, sp := true, n := true, z := true }
  | .plx => { x := true, sp := true, n := true, z := true }
  | .ply => { y := true, sp := true, n := true, z := true }
  | .plp => { Claims.Writes.status with sp := true }
  | .clc | .sec => { c := true }
  | .cli | .sei => { i := true }
  | .clv => { v := true }
  | .cld | .sed => { d := true }
  | .nop | .nopStar _ _ => {}
  | .brk _ => { memory := true, sp := true, i := true, d := cfg.isCmos, pc := true }
  | .wai | .stp => { run := true }
  | .illegal _ => { run := true }

/-- R57, its column "writes": when an instruction completes, every register outside its row is as before, PC is past its
bytes unless it loads PC, and every stored byte is as before unless it writes memory. -/
def Obligations.InstructionsWriteOnlyTheirRow : Prop :=
  ∀ (i : Instr) (s t : State), exec i s = .next t → s.isFaulted = false → t.isFaulted = false →
    ((Claims.writes s.cfg i).a = false → t.cpu.a = s.cpu.a) ∧
    ((Claims.writes s.cfg i).x = false → t.cpu.x = s.cpu.x) ∧
    ((Claims.writes s.cfg i).y = false → t.cpu.y = s.cpu.y) ∧
    ((Claims.writes s.cfg i).sp = false → t.cpu.sp = s.cpu.sp) ∧
    ((Claims.writes s.cfg i).n = false → t.cpu.n = s.cpu.n) ∧
    ((Claims.writes s.cfg i).v = false → t.cpu.v = s.cpu.v) ∧
    ((Claims.writes s.cfg i).b = false → t.cpu.b = s.cpu.b) ∧
    ((Claims.writes s.cfg i).d = false → t.cpu.d = s.cpu.d) ∧
    ((Claims.writes s.cfg i).i = false → t.cpu.i = s.cpu.i) ∧
    ((Claims.writes s.cfg i).z = false → t.cpu.z = s.cpu.z) ∧
    ((Claims.writes s.cfg i).c = false → t.cpu.c = s.cpu.c) ∧
    ((Claims.writes s.cfg i).run = false → t.cpu.run = s.cpu.run) ∧
    ((Claims.writes s.cfg i).pc = false → t.cpu.pc = s.cpu.pc + BitVec.ofNat 16 i.length) ∧
    ((Claims.writes s.cfg i).memory = false → Claims.sameBytes s.bus t.bus) ∧
    t.cpu.nmiPending = s.cpu.nmiPending ∧ t.cfg = s.cfg ∧ t.irqLine = s.irqLine

/-! ## The host -/

/-- R380, R381 and R383: reset in any run state: the draws, I set, D clear on CMOS, the latch, the run state and the
cycles, PC from the vector low byte first, or, where a vector read raises, Faulted with PC a draw; stored bytes, registry
and input line are untouched. -/
def Obligations.ResetLoadsTheVector : Prop :=
  ∀ (draw : ResetDraw) (s : State),
    (∀ lo hi b, Claims.readsInOrder [0xFFFC#16, 0xFFFD#16] s.bus = .ok [lo, hi] b →
      hostReset draw s = { s with
        cpu :=
          { a := draw.a, x := draw.x, y := draw.y, sp := draw.sp,
            pc := BitVec.ofNat 16 (hi.toNat * 256 + lo.toNat),
            n := draw.n, v := draw.v, b := draw.b, d := if s.cfg.isCmos then false else draw.d, i := true,
            z := draw.z, c := draw.c, ir := draw.ir, cycles := 0, nmiPending := false, run := .running }
        bus := b } ∧
      Claims.sameBytes s.bus b) ∧
    (∀ f b, Claims.readsInOrder [0xFFFC#16, 0xFFFD#16] s.bus = .raised f b →
      hostReset draw s = { s with
        cpu :=
          { a := draw.a, x := draw.x, y := draw.y, sp := draw.sp, pc := draw.pc,
            n := draw.n, v := draw.v, b := draw.b, d := if s.cfg.isCmos then false else draw.d, i := true,
            z := draw.z, c := draw.c, ir := draw.ir, cycles := 0, nmiPending := false, run := .faulted f }
        bus := b } ∧
      Claims.readFault f ∧ Claims.sameBytes s.bus b)

/-- From R73 and R74: a device is registered exactly when its range lies in the window and meets no other; a failed call
changes nothing; registering keeps the invariant of the bus and makes the device the owner of its range alone, a reference
device with the bytes that it came with, and unregistering makes the range a hole and gives the device back with its bytes.
That a device's identity is its number, and that the first binding with it goes, is the model's (log 17), as is that a
reference device carries its bytes in and out (log 11). -/
def Obligations.RegistryCallsKeepTheRanges : Prop :=
  ∀ (s : State) (d : Device), s.busWf = true →
    ((d.binding.stop.toNat < d.binding.start.toNat ∨ d.binding.start.toNat < s.cfg.winLo.toNat ∨
        s.cfg.winHi.toNat < d.binding.stop.toNat ∨
        ∃ e ∈ s.bus.registry, ∃ a : Addr, d.binding.owns a = true ∧ e.owns a = true) →
      registerDevice d s = .failed (.rangeConflict d.binding.id) s) ∧
    (¬ (d.binding.stop.toNat < d.binding.start.toNat ∨ d.binding.start.toNat < s.cfg.winLo.toNat ∨
        s.cfg.winHi.toNat < d.binding.stop.toNat ∨
        ∃ e ∈ s.bus.registry, ∃ a : Addr, d.binding.owns a = true ∧ e.owns a = true) →
      ∃ t, registerDevice d s = .done t ∧ t.busWf = true ∧ t.cpu = s.cpu ∧ t.cfg = s.cfg ∧ t.irqLine = s.irqLine ∧
        (∀ a : Addr, d.binding.owns a = true → t.bus.lookup a = some d.binding) ∧
        (∀ a : Addr, d.binding.owns a = true → Memory.wf d.cells = true →
          (d.binding.kind = .ram ∨ d.binding.kind = .rom) → t.bus.peek a = some (Memory.read d.cells a.toNat)) ∧
        (∀ a : Addr, d.binding.owns a = false → t.bus.lookup a = s.bus.lookup a ∧ t.bus.peek a = s.bus.peek a)) ∧
    (∀ id, (∀ e ∈ s.bus.registry, e.id ≠ id) → unregisterDevice id s = .failed (.notFound id) s) ∧
    (∀ id e, s.bus.registry.find? (fun e => e.id == id) = some e →
      (∃ back, unregisteredDevice id s = some back ∧ back.binding = e ∧ Memory.wf back.cells = true ∧
        ∀ a x, e.owns a = true → s.bus.peek a = some x → Memory.read back.cells a.toNat = x) ∧
      ∃ t, unregisterDevice id s = .done t ∧ t.busWf = true ∧ t.cpu = s.cpu ∧ t.cfg = s.cfg ∧ t.irqLine = s.irqLine ∧
        (∀ a : Addr, e.owns a = true → t.bus.lookup a = none) ∧
        (∀ a : Addr, e.owns a = false → t.bus.lookup a = s.bus.lookup a ∧ t.bus.peek a = s.bus.peek a))

/-- Bulk load (R84) into reference devices stores every byte of the sequence and nothing else; an address without an
owner, or above 0xFFFF, is found before anything is written. That the report is a number, which may lie above 0xFFFF, is
the model's (log 18). -/
def Obligations.LoadValidatesThenStores : Prop :=
  ∀ (s : State) (start : Addr) (bytes : List Byte), s.busWf = true →
    ((∀ k, k < bytes.length → start.toNat + k < 65536 ∧ s.bus.readable (BitVec.ofNat 16 (start.toNat + k))) →
      ∃ t, load start bytes s = .done t ∧ t.cpu = s.cpu ∧ t.busWf = true ∧
        (∀ k, k < bytes.length → t.bus.peek (BitVec.ofNat 16 (start.toNat + k)) = bytes[k]?) ∧
        (∀ a : Addr, (a.toNat < start.toNat ∨ start.toNat + bytes.length ≤ a.toNat) → t.bus.peek a = s.bus.peek a)) ∧
    (∀ k, k < bytes.length →
      (∀ j, j < k → start.toNat + j < 65536 ∧ (s.bus.lookup (BitVec.ofNat 16 (start.toNat + j))).isSome = true) →
      (65536 ≤ start.toNat + k ∨ s.bus.lookup (BitVec.ofNat 16 (start.toNat + k)) = none) →
      load start bytes s = .failed (.unmapped (start.toNat + k)) s)

end
end

