-- ==== Sys2Proof/Laws/Bits.lean ====
section
/-! SUPPORT. Bytes and words: taking a word apart and putting it together, and their values as numbers. -/

namespace Sys2Proof

@[simp] theorem word_hi_lo (w : Addr) : word (hi8 w) (lo8 w) = w := by
  apply BitVec.eq_of_getLsbD_eq
  intro i hi
  have : i < 16 := hi
  simp only [word, hi8, lo8, BitVec.getLsbD_append]
  split <;> simp <;> grind

@[simp] theorem lo8_word (h l : Byte) : lo8 (word h l) = l := by
  apply BitVec.eq_of_getLsbD_eq
  intro i hi
  simp only [word, lo8, BitVec.getLsbD_extractLsb', BitVec.getLsbD_append]
  simp; grind

@[simp] theorem hi8_word (h l : Byte) : hi8 (word h l) = h := by
  apply BitVec.eq_of_getLsbD_eq
  intro i hi
  simp only [word, hi8, BitVec.getLsbD_extractLsb', BitVec.getLsbD_append]
  simp; grind

theorem word_toNat (h l : Byte) : (word h l).toNat = h.toNat * 256 + l.toNat := by
  have hl := l.isLt
  rw [word, BitVec.toNat_append, ← Nat.shiftLeft_add_eq_or_of_lt hl, Nat.shiftLeft_eq]

theorem lo8_toNat (w : Addr) : (lo8 w).toNat = w.toNat % 256 := by
  have h : w.toNat = (hi8 w).toNat * 256 + (lo8 w).toNat := by rw [← word_toNat, word_hi_lo]
  have := (lo8 w).isLt
  omega

theorem hi8_toNat (w : Addr) : (hi8 w).toNat = w.toNat / 256 := by
  have h : w.toNat = (hi8 w).toNat * 256 + (lo8 w).toNat := by rw [← word_toNat, word_hi_lo]
  have := (lo8 w).isLt
  omega

/-- A word is made of two bytes when its value is. -/
theorem eq_word {w : Addr} {h l : Byte} (e : w.toNat = h.toNat * 256 + l.toNat) : w = word h l :=
  BitVec.eq_of_toNat_eq (by rw [e, word_toNat])

theorem word_eq_ofNat (h l : Byte) : word h l = BitVec.ofNat 16 (h.toNat * 256 + l.toNat) := by
  rw [← word_toNat, BitVec.ofNat_toNat, BitVec.setWidth_eq]

theorem zext_toNat (v : Byte) : (zext v).toNat = v.toNat := by
  have h : v.toNat < 256 := v.isLt
  simp only [zext, BitVec.toNat_setWidth]
  exact Nat.mod_eq_of_lt (by omega)

theorem zext_eq_ofNat (v : Byte) : zext v = BitVec.ofNat 16 v.toNat := by
  apply BitVec.eq_of_toNat_eq
  have : v.toNat < 256 := v.isLt
  rw [zext_toNat, BitVec.toNat_ofNat]
  omega

/-- Two addresses lie on different pages when their quotients by 256 differ (R159). -/
theorem crosses_iff (a b : Addr) : crosses a b = decide (a.toNat / 256 ≠ b.toNat / 256) := by
  have h : hi8 a = hi8 b ↔ a.toNat / 256 = b.toNat / 256 := by
    rw [← hi8_toNat, ← hi8_toNat]
    exact ⟨fun e => by rw [e], BitVec.eq_of_toNat_eq⟩
  by_cases e : hi8 a = hi8 b
  · simp [crosses, e, h.mp e]
  · simp [crosses, e, mt h.mpr e]

namespace Machine

theorem stackAddr_toNat (sp : Byte) : (stackAddr sp).toNat = 256 + sp.toNat := by
  simp [stackAddr, word_toNat]

/-- Different values of SP address different bytes. -/
theorem stackAddr_inj {a b : Byte} (h : stackAddr a = stackAddr b) : a = b := by
  have := congrArg lo8 h
  simpa [stackAddr] using this

end Machine

end Sys2Proof
end

