-- ==== Sys2Proof/Laws/Memory.lean ====
section
/-! SUPPORT. The stored bytes: a read after a write, and the canonical form, which every operation keeps. -/

namespace Sys2Proof.Machine

theorem memory_read_write_same (m : List Host.Cell) (a : Nat) (v : Byte) :
    ∀ {lo : Nat}, Memory.wfFrom lo m = true → Memory.read (Memory.write m a v) a = v := by
  induction m with
  | nil => intro lo _; by_cases h : v = Memory.unlisted <;> simp [Memory.write, Memory.read, h]
  | cons cell m ih =>
    obtain ⟨k, w⟩ := cell
    intro lo h
    simp only [Memory.wfFrom, Bool.and_eq_true, decide_eq_true_eq] at h
    unfold Memory.write
    have below : ∀ (m : List Host.Cell) (lo : Nat), a < lo → Memory.wfFrom lo m = true →
        Memory.read m a = Memory.unlisted := by
      intro m
      induction m with
      | nil => intros; rfl
      | cons cell m ih =>
        obtain ⟨k, w⟩ := cell
        intro lo hlt hwf
        simp only [Memory.wfFrom, Bool.and_eq_true, decide_eq_true_eq] at hwf
        have hk : a ≠ k := by omega
        simp [Memory.read, hk, ih (k + 1) (by omega) hwf.2]
    by_cases hlt : a < k
    · have hk : a ≠ k := by omega
      by_cases hv : v = Memory.unlisted <;>
        simp [Memory.read, hlt, hv, hk, below m (k + 1) (by omega) h.2]
    · by_cases hk : a = k
      · subst hk
        by_cases hv : v = Memory.unlisted <;> simp [Memory.read, hv, below m (a + 1) (by omega) h.2]
      · simp [Memory.read, hlt, hk, ih h.2]

theorem memory_read_write_other (m : List Host.Cell) (a b : Nat) (v : Byte) (hab : b ≠ a) :
    Memory.read (Memory.write m a v) b = Memory.read m b := by
  induction m with
  | nil => by_cases h : v = Memory.unlisted <;> simp [Memory.write, Memory.read, h, hab]
  | cons cell m ih =>
    obtain ⟨k, w⟩ := cell
    unfold Memory.write
    by_cases hlt : a < k
    · by_cases hv : v = Memory.unlisted <;> simp [Memory.read, hlt, hv, hab]
    · by_cases hk : a = k
      · subst hk
        by_cases hv : v = Memory.unlisted <;> simp [Memory.read, hv, hab]
      · by_cases hb : b = k <;> simp [Memory.read, hlt, hk, hb, ih]

theorem memory_wfFrom_mono {m : List Host.Cell} {lo lo' : Nat} (hle : lo' ≤ lo) (h : Memory.wfFrom lo m = true) :
    Memory.wfFrom lo' m = true := by
  cases m with
  | nil => rfl
  | cons cell m =>
    obtain ⟨k, w⟩ := cell
    simp only [Memory.wfFrom, Bool.and_eq_true, decide_eq_true_eq] at h ⊢
    exact ⟨⟨⟨by omega, h.1.1.2⟩, h.1.2⟩, h.2⟩

theorem memory_wfFrom_write (m : List Host.Cell) (a : Nat) (v : Byte) (ha : a < 65536) :
    ∀ {lo : Nat}, lo ≤ a → Memory.wfFrom lo m = true → Memory.wfFrom lo (Memory.write m a v) = true := by
  induction m with
  | nil =>
    intro lo hlo _
    by_cases h : v = Memory.unlisted <;> simp [Memory.write, Memory.wfFrom, h, ha, hlo]
  | cons cell m ih =>
    obtain ⟨k, w⟩ := cell
    intro lo hlo h
    have h' := h
    simp only [Memory.wfFrom, Bool.and_eq_true, decide_eq_true_eq] at h
    obtain ⟨⟨⟨h1, h2⟩, h3⟩, h4⟩ := h
    unfold Memory.write
    by_cases hlt : a < k
    · by_cases hv : v = Memory.unlisted
      · simpa [hlt, hv] using h'
      · simp [hlt, hv, Memory.wfFrom, hlo, ha, h2, h3, h4, Nat.succ_le_of_lt hlt]
    · by_cases hk : a = k
      · subst hk
        by_cases hv : v = Memory.unlisted
        · simpa [hv] using memory_wfFrom_mono (by omega) h4
        · simp [hv, Memory.wfFrom, hlo, ha, h4]
      · simp [hlt, hk, Memory.wfFrom, h1, h2, h3, ih (by omega : k + 1 ≤ a) h4]

/-- A write keeps the canonical form. -/
theorem memory_wf_write {m : List Host.Cell} (addr : Addr) (v : Byte) (h : Memory.wf m = true) :
    Memory.wf (Memory.write m addr.toNat v) = true :=
  memory_wfFrom_write m addr.toNat v addr.isLt (Nat.zero_le _) h

/-- Dropping cells keeps the canonical form. -/
theorem memory_wfFrom_filter (p : Host.Cell → Bool) (m : List Host.Cell) :
    ∀ {lo : Nat}, Memory.wfFrom lo m = true → Memory.wfFrom lo (m.filter p) = true := by
  induction m with
  | nil => intro lo h; exact h
  | cons cell m ih =>
    obtain ⟨k, w⟩ := cell
    intro lo h
    simp only [Memory.wfFrom, Bool.and_eq_true, decide_eq_true_eq] at h
    obtain ⟨⟨⟨h1, h2⟩, h3⟩, h4⟩ := h
    by_cases hp : p (k, w) = true
    · simp [List.filter, hp, Memory.wfFrom, h1, h2, h3, ih h4]
    · simp only [Bool.not_eq_true] at hp
      simpa [List.filter, hp] using memory_wfFrom_mono (by omega) (ih h4)

theorem memory_wf_outside {m : List Host.Cell} (lo hi : Nat) (h : Memory.wf m = true) :
    Memory.wf (Memory.outside m lo hi) = true :=
  memory_wfFrom_filter _ m h

theorem memory_wf_inside {m : List Host.Cell} (lo hi : Nat) (h : Memory.wf m = true) :
    Memory.wf (Memory.inside m lo hi) = true :=
  memory_wfFrom_filter _ m h

/-- Storing cells at addresses of the address space keeps the canonical form. -/
theorem memory_wf_writeAll (cells : List Host.Cell) (hc : ∀ c ∈ cells, c.1 < 65536) :
    ∀ {m : List Host.Cell}, Memory.wf m = true → Memory.wf (Memory.writeAll m cells) = true := by
  induction cells with
  | nil => intro m h; exact h
  | cons cell cells ih =>
    obtain ⟨k, v⟩ := cell
    intro m h
    exact ih (fun c hm => hc c (List.mem_cons_of_mem _ hm))
      (memory_wfFrom_write m k v (hc (k, v) (List.mem_cons_self ..)) (Nat.zero_le _) h)

/-! ## Reads after taking cells out or putting cells in -/

/-- Dropping cells of other addresses leaves the byte at an address. -/
theorem memory_read_filter {p : Host.Cell → Bool} {m : List Host.Cell} {a : Nat} (h : ∀ v, p (a, v) = true) :
    Memory.read (m.filter p) a = Memory.read m a := by
  induction m with
  | nil => rfl
  | cons cell m ih =>
    obtain ⟨k, v⟩ := cell
    by_cases hk : a = k
    · subst hk
      simp only [List.filter, h, Memory.read, if_true]
    · cases hp : p (k, v) <;> simp only [List.filter, hp, Memory.read, hk, if_false, ih]

theorem memory_read_inside {m : List Host.Cell} {lo hi a : Nat} (h : lo ≤ a ∧ a ≤ hi) :
    Memory.read (Memory.inside m lo hi) a = Memory.read m a :=
  memory_read_filter fun _ => by simp only [h.1, h.2, decide_true, Bool.and_true]

theorem memory_read_outside {m : List Host.Cell} {lo hi a : Nat} (h : ¬ (lo ≤ a ∧ a ≤ hi)) :
    Memory.read (Memory.outside m lo hi) a = Memory.read m a :=
  memory_read_filter fun _ => by
    simp only [Bool.not_eq_true', Bool.and_eq_false_iff, decide_eq_false_iff_not]
    omega

/-- A range that was taken out reads as nothing written. -/
theorem memory_read_outside_in {m : List Host.Cell} {lo hi a : Nat} (h : lo ≤ a ∧ a ≤ hi) :
    Memory.read (Memory.outside m lo hi) a = Memory.unlisted := by
  induction m with
  | nil => rfl
  | cons cell m ih =>
    obtain ⟨k, v⟩ := cell
    simp only [Memory.outside] at ih
    cases hp : (!(decide (lo ≤ k) && decide (k ≤ hi)))
    · simp only [Memory.outside, List.filter, hp, ih]
    · have hk : a ≠ k := by
        rintro rfl
        simp [h.1, h.2] at hp
      simp only [Memory.outside, List.filter, hp, Memory.read, hk, if_false, ih]

/-- Below its bound, a list in canonical form holds nothing. -/
theorem memory_read_below {m : List Host.Cell} {lo a : Nat} (h : Memory.wfFrom lo m = true) (ha : a < lo) :
    Memory.read m a = Memory.unlisted := by
  induction m generalizing lo with
  | nil => rfl
  | cons cell m ih =>
    obtain ⟨k, v⟩ := cell
    simp only [Memory.wfFrom, Bool.and_eq_true, decide_eq_true_eq] at h
    have hk : a ≠ k := by omega
    simp only [Memory.read, hk, if_false, ih h.2 (by omega)]

/-- Storing the cells of a list in canonical form: each of its bytes is read back, and every other is as before. -/
theorem memory_read_writeAll {m cells : List Host.Cell} {a lo : Nat} (h : Memory.wfFrom lo cells = true)
    (hm : Memory.wf m = true) :
    Memory.read (Memory.writeAll m cells) a =
      if Memory.read cells a = Memory.unlisted then Memory.read m a else Memory.read cells a := by
  induction cells generalizing m lo with
  | nil => simp [Memory.writeAll, Memory.read]
  | cons cell cells ih =>
    obtain ⟨k, v⟩ := cell
    simp only [Memory.wfFrom, Bool.and_eq_true, decide_eq_true_eq] at h
    obtain ⟨⟨⟨-, h2⟩, h3⟩, h4⟩ := h
    rw [Memory.writeAll, ih h4 (memory_wfFrom_write m k v h2 (Nat.zero_le _) hm)]
    by_cases hk : a = k
    · subst hk
      simp [Memory.read, memory_read_below h4 (Nat.lt_succ_self a), h3, memory_read_write_same m a v hm]
    · simp [Memory.read, hk, memory_read_write_other m k a v hk]

end Sys2Proof.Machine
end

