-- ==== Sys2Proof/Laws/State.lean ====
section
/-! SUPPORT. What each update of the processor state does to each field. -/

namespace Sys2Proof.Machine

/-! ### SetNZ -/

@[simp] theorem setNZ_a (cpu : CpuState) (w : Byte) : (cpu.setNZ w).a = cpu.a := rfl
@[simp] theorem setNZ_x (cpu : CpuState) (w : Byte) : (cpu.setNZ w).x = cpu.x := rfl
@[simp] theorem setNZ_y (cpu : CpuState) (w : Byte) : (cpu.setNZ w).y = cpu.y := rfl
@[simp] theorem setNZ_sp (cpu : CpuState) (w : Byte) : (cpu.setNZ w).sp = cpu.sp := rfl
@[simp] theorem setNZ_pc (cpu : CpuState) (w : Byte) : (cpu.setNZ w).pc = cpu.pc := rfl
@[simp] theorem setNZ_n (cpu : CpuState) (w : Byte) : (cpu.setNZ w).n = w.getLsbD 7 := rfl
@[simp] theorem setNZ_v (cpu : CpuState) (w : Byte) : (cpu.setNZ w).v = cpu.v := rfl
@[simp] theorem setNZ_b (cpu : CpuState) (w : Byte) : (cpu.setNZ w).b = cpu.b := rfl
@[simp] theorem setNZ_d (cpu : CpuState) (w : Byte) : (cpu.setNZ w).d = cpu.d := rfl
@[simp] theorem setNZ_i (cpu : CpuState) (w : Byte) : (cpu.setNZ w).i = cpu.i := rfl
@[simp] theorem setNZ_z (cpu : CpuState) (w : Byte) : (cpu.setNZ w).z = (w == 0#8) := rfl
@[simp] theorem setNZ_c (cpu : CpuState) (w : Byte) : (cpu.setNZ w).c = cpu.c := rfl
@[simp] theorem setNZ_ir (cpu : CpuState) (w : Byte) : (cpu.setNZ w).ir = cpu.ir := rfl
@[simp] theorem setNZ_cycles (cpu : CpuState) (w : Byte) : (cpu.setNZ w).cycles = cpu.cycles := rfl
@[simp] theorem setNZ_nmiPending (cpu : CpuState) (w : Byte) : (cpu.setNZ w).nmiPending = cpu.nmiPending := rfl
@[simp] theorem setNZ_run (cpu : CpuState) (w : Byte) : (cpu.setNZ w).run = cpu.run := rfl

/-! ### UnpackP -/

@[simp] theorem unpackP_a (cpu : CpuState) (w : Byte) : (cpu.unpackP w).a = cpu.a := rfl
@[simp] theorem unpackP_x (cpu : CpuState) (w : Byte) : (cpu.unpackP w).x = cpu.x := rfl
@[simp] theorem unpackP_y (cpu : CpuState) (w : Byte) : (cpu.unpackP w).y = cpu.y := rfl
@[simp] theorem unpackP_sp (cpu : CpuState) (w : Byte) : (cpu.unpackP w).sp = cpu.sp := rfl
@[simp] theorem unpackP_pc (cpu : CpuState) (w : Byte) : (cpu.unpackP w).pc = cpu.pc := rfl
@[simp] theorem unpackP_n (cpu : CpuState) (w : Byte) : (cpu.unpackP w).n = w.getLsbD 7 := rfl
@[simp] theorem unpackP_v (cpu : CpuState) (w : Byte) : (cpu.unpackP w).v = w.getLsbD 6 := rfl
@[simp] theorem unpackP_b (cpu : CpuState) (w : Byte) : (cpu.unpackP w).b = w.getLsbD 4 := rfl
@[simp] theorem unpackP_d (cpu : CpuState) (w : Byte) : (cpu.unpackP w).d = w.getLsbD 3 := rfl
@[simp] theorem unpackP_i (cpu : CpuState) (w : Byte) : (cpu.unpackP w).i = w.getLsbD 2 := rfl
@[simp] theorem unpackP_z (cpu : CpuState) (w : Byte) : (cpu.unpackP w).z = w.getLsbD 1 := rfl
@[simp] theorem unpackP_c (cpu : CpuState) (w : Byte) : (cpu.unpackP w).c = w.getLsbD 0 := rfl
@[simp] theorem unpackP_ir (cpu : CpuState) (w : Byte) : (cpu.unpackP w).ir = cpu.ir := rfl
@[simp] theorem unpackP_cycles (cpu : CpuState) (w : Byte) : (cpu.unpackP w).cycles = cpu.cycles := rfl
@[simp] theorem unpackP_nmiPending (cpu : CpuState) (w : Byte) : (cpu.unpackP w).nmiPending = cpu.nmiPending := rfl
@[simp] theorem unpackP_run (cpu : CpuState) (w : Byte) : (cpu.unpackP w).run = cpu.run := rfl

/-! ### The adder -/

@[simp] theorem setAlu_a (cpu : CpuState) (o : AluResult) : (cpu.setAlu o).a = o.r := rfl
@[simp] theorem setAlu_x (cpu : CpuState) (o : AluResult) : (cpu.setAlu o).x = cpu.x := rfl
@[simp] theorem setAlu_y (cpu : CpuState) (o : AluResult) : (cpu.setAlu o).y = cpu.y := rfl
@[simp] theorem setAlu_sp (cpu : CpuState) (o : AluResult) : (cpu.setAlu o).sp = cpu.sp := rfl
@[simp] theorem setAlu_pc (cpu : CpuState) (o : AluResult) : (cpu.setAlu o).pc = cpu.pc := rfl
@[simp] theorem setAlu_n (cpu : CpuState) (o : AluResult) : (cpu.setAlu o).n = o.n := rfl
@[simp] theorem setAlu_v (cpu : CpuState) (o : AluResult) : (cpu.setAlu o).v = o.v := rfl
@[simp] theorem setAlu_b (cpu : CpuState) (o : AluResult) : (cpu.setAlu o).b = cpu.b := rfl
@[simp] theorem setAlu_d (cpu : CpuState) (o : AluResult) : (cpu.setAlu o).d = cpu.d := rfl
@[simp] theorem setAlu_i (cpu : CpuState) (o : AluResult) : (cpu.setAlu o).i = cpu.i := rfl
@[simp] theorem setAlu_z (cpu : CpuState) (o : AluResult) : (cpu.setAlu o).z = o.z := rfl
@[simp] theorem setAlu_c (cpu : CpuState) (o : AluResult) : (cpu.setAlu o).c = o.c := rfl
@[simp] theorem setAlu_ir (cpu : CpuState) (o : AluResult) : (cpu.setAlu o).ir = cpu.ir := rfl
@[simp] theorem setAlu_cycles (cpu : CpuState) (o : AluResult) : (cpu.setAlu o).cycles = cpu.cycles := rfl
@[simp] theorem setAlu_nmiPending (cpu : CpuState) (o : AluResult) : (cpu.setAlu o).nmiPending = cpu.nmiPending := rfl
@[simp] theorem setAlu_run (cpu : CpuState) (o : AluResult) : (cpu.setAlu o).run = cpu.run := rfl

/-! ### Compare -/

@[simp] theorem compare_a (cpu : CpuState) (r m : Byte) : (cpu.compare r m).a = cpu.a := rfl
@[simp] theorem compare_x (cpu : CpuState) (r m : Byte) : (cpu.compare r m).x = cpu.x := rfl
@[simp] theorem compare_y (cpu : CpuState) (r m : Byte) : (cpu.compare r m).y = cpu.y := rfl
@[simp] theorem compare_sp (cpu : CpuState) (r m : Byte) : (cpu.compare r m).sp = cpu.sp := rfl
@[simp] theorem compare_pc (cpu : CpuState) (r m : Byte) : (cpu.compare r m).pc = cpu.pc := rfl
@[simp] theorem compare_n (cpu : CpuState) (r m : Byte) : (cpu.compare r m).n = (r - m).getLsbD 7 := rfl
@[simp] theorem compare_v (cpu : CpuState) (r m : Byte) : (cpu.compare r m).v = cpu.v := rfl
@[simp] theorem compare_b (cpu : CpuState) (r m : Byte) : (cpu.compare r m).b = cpu.b := rfl
@[simp] theorem compare_d (cpu : CpuState) (r m : Byte) : (cpu.compare r m).d = cpu.d := rfl
@[simp] theorem compare_i (cpu : CpuState) (r m : Byte) : (cpu.compare r m).i = cpu.i := rfl
@[simp] theorem compare_z (cpu : CpuState) (r m : Byte) : (cpu.compare r m).z = (r - m == 0#8) := rfl
@[simp] theorem compare_c (cpu : CpuState) (r m : Byte) : (cpu.compare r m).c = decide (r.toNat ≥ m.toNat) := rfl
@[simp] theorem compare_ir (cpu : CpuState) (r m : Byte) : (cpu.compare r m).ir = cpu.ir := rfl
@[simp] theorem compare_cycles (cpu : CpuState) (r m : Byte) : (cpu.compare r m).cycles = cpu.cycles := rfl
@[simp] theorem compare_nmiPending (cpu : CpuState) (r m : Byte) : (cpu.compare r m).nmiPending = cpu.nmiPending := rfl
@[simp] theorem compare_run (cpu : CpuState) (r m : Byte) : (cpu.compare r m).run = cpu.run := rfl

/-! ### Shifts -/

@[simp] theorem setShift_a (cpu : CpuState) (o : ShiftResult) : (cpu.setShift o).a = cpu.a := rfl
@[simp] theorem setShift_x (cpu : CpuState) (o : ShiftResult) : (cpu.setShift o).x = cpu.x := rfl
@[simp] theorem setShift_y (cpu : CpuState) (o : ShiftResult) : (cpu.setShift o).y = cpu.y := rfl
@[simp] theorem setShift_sp (cpu : CpuState) (o : ShiftResult) : (cpu.setShift o).sp = cpu.sp := rfl
@[simp] theorem setShift_pc (cpu : CpuState) (o : ShiftResult) : (cpu.setShift o).pc = cpu.pc := rfl
@[simp] theorem setShift_n (cpu : CpuState) (o : ShiftResult) : (cpu.setShift o).n = o.r.getLsbD 7 := rfl
@[simp] theorem setShift_v (cpu : CpuState) (o : ShiftResult) : (cpu.setShift o).v = cpu.v := rfl
@[simp] theorem setShift_b (cpu : CpuState) (o : ShiftResult) : (cpu.setShift o).b = cpu.b := rfl
@[simp] theorem setShift_d (cpu : CpuState) (o : ShiftResult) : (cpu.setShift o).d = cpu.d := rfl
@[simp] theorem setShift_i (cpu : CpuState) (o : ShiftResult) : (cpu.setShift o).i = cpu.i := rfl
@[simp] theorem setShift_z (cpu : CpuState) (o : ShiftResult) : (cpu.setShift o).z = (o.r == 0#8) := rfl
@[simp] theorem setShift_c (cpu : CpuState) (o : ShiftResult) : (cpu.setShift o).c = o.c := rfl
@[simp] theorem setShift_ir (cpu : CpuState) (o : ShiftResult) : (cpu.setShift o).ir = cpu.ir := rfl
@[simp] theorem setShift_cycles (cpu : CpuState) (o : ShiftResult) : (cpu.setShift o).cycles = cpu.cycles := rfl
@[simp] theorem setShift_nmiPending (cpu : CpuState) (o : ShiftResult) : (cpu.setShift o).nmiPending = cpu.nmiPending := rfl
@[simp] theorem setShift_run (cpu : CpuState) (o : ShiftResult) : (cpu.setShift o).run = cpu.run := rfl

/-! ### Bit masks -/

@[simp] theorem setZMask_a (cpu : CpuState) (m : Byte) : (cpu.setZMask m).a = cpu.a := rfl
@[simp] theorem setZMask_x (cpu : CpuState) (m : Byte) : (cpu.setZMask m).x = cpu.x := rfl
@[simp] theorem setZMask_y (cpu : CpuState) (m : Byte) : (cpu.setZMask m).y = cpu.y := rfl
@[simp] theorem setZMask_sp (cpu : CpuState) (m : Byte) : (cpu.setZMask m).sp = cpu.sp := rfl
@[simp] theorem setZMask_pc (cpu : CpuState) (m : Byte) : (cpu.setZMask m).pc = cpu.pc := rfl
@[simp] theorem setZMask_n (cpu : CpuState) (m : Byte) : (cpu.setZMask m).n = cpu.n := rfl
@[simp] theorem setZMask_v (cpu : CpuState) (m : Byte) : (cpu.setZMask m).v = cpu.v := rfl
@[simp] theorem setZMask_b (cpu : CpuState) (m : Byte) : (cpu.setZMask m).b = cpu.b := rfl
@[simp] theorem setZMask_d (cpu : CpuState) (m : Byte) : (cpu.setZMask m).d = cpu.d := rfl
@[simp] theorem setZMask_i (cpu : CpuState) (m : Byte) : (cpu.setZMask m).i = cpu.i := rfl
@[simp] theorem setZMask_z (cpu : CpuState) (m : Byte) : (cpu.setZMask m).z = (cpu.a &&& m == 0#8) := rfl
@[simp] theorem setZMask_c (cpu : CpuState) (m : Byte) : (cpu.setZMask m).c = cpu.c := rfl
@[simp] theorem setZMask_ir (cpu : CpuState) (m : Byte) : (cpu.setZMask m).ir = cpu.ir := rfl
@[simp] theorem setZMask_cycles (cpu : CpuState) (m : Byte) : (cpu.setZMask m).cycles = cpu.cycles := rfl
@[simp] theorem setZMask_nmiPending (cpu : CpuState) (m : Byte) : (cpu.setZMask m).nmiPending = cpu.nmiPending := rfl
@[simp] theorem setZMask_run (cpu : CpuState) (m : Byte) : (cpu.setZMask m).run = cpu.run := rfl

/-! ### The fetch of an instruction -/

@[simp] theorem fetched_a (cpu : CpuState) (j : Instr) : (cpu.fetched j).a = cpu.a := rfl
@[simp] theorem fetched_x (cpu : CpuState) (j : Instr) : (cpu.fetched j).x = cpu.x := rfl
@[simp] theorem fetched_y (cpu : CpuState) (j : Instr) : (cpu.fetched j).y = cpu.y := rfl
@[simp] theorem fetched_sp (cpu : CpuState) (j : Instr) : (cpu.fetched j).sp = cpu.sp := rfl
@[simp] theorem fetched_pc (cpu : CpuState) (j : Instr) : (cpu.fetched j).pc = cpu.pc + BitVec.ofNat 16 j.length := rfl
@[simp] theorem fetched_n (cpu : CpuState) (j : Instr) : (cpu.fetched j).n = cpu.n := rfl
@[simp] theorem fetched_v (cpu : CpuState) (j : Instr) : (cpu.fetched j).v = cpu.v := rfl
@[simp] theorem fetched_b (cpu : CpuState) (j : Instr) : (cpu.fetched j).b = cpu.b := rfl
@[simp] theorem fetched_d (cpu : CpuState) (j : Instr) : (cpu.fetched j).d = cpu.d := rfl
@[simp] theorem fetched_i (cpu : CpuState) (j : Instr) : (cpu.fetched j).i = cpu.i := rfl
@[simp] theorem fetched_z (cpu : CpuState) (j : Instr) : (cpu.fetched j).z = cpu.z := rfl
@[simp] theorem fetched_c (cpu : CpuState) (j : Instr) : (cpu.fetched j).c = cpu.c := rfl
@[simp] theorem fetched_ir (cpu : CpuState) (j : Instr) : (cpu.fetched j).ir = j.opcode?.getD cpu.ir := rfl
@[simp] theorem fetched_cycles (cpu : CpuState) (j : Instr) : (cpu.fetched j).cycles = cpu.cycles := rfl
@[simp] theorem fetched_nmiPending (cpu : CpuState) (j : Instr) : (cpu.fetched j).nmiPending = cpu.nmiPending := rfl
@[simp] theorem fetched_run (cpu : CpuState) (j : Instr) : (cpu.fetched j).run = cpu.run := rfl

/-! ### Whole states -/

@[simp] theorem abandon_cfg (s : State) (f : Fault) (b : Bus) : (s.abandon f b).cfg = s.cfg := rfl
@[simp] theorem abandon_cpu (s : State) (f : Fault) (b : Bus) :
    (s.abandon f b).cpu = { s.cpu with run := .faulted f } := rfl
@[simp] theorem abandon_irqLine (s : State) (f : Fault) (b : Bus) : (s.abandon f b).irqLine = s.irqLine := rfl
@[simp] theorem abandon_bus (s : State) (f : Fault) (b : Bus) : (s.abandon f b).bus = b := rfl

end Sys2Proof.Machine
end

