-- ==== Sys2Proof/Laws/Bus.lean ====
section
/-! SUPPORT. What a bus operation can do, said once: reads keep the stored bytes and the layout of the registry, writes
store one byte or change one device's state, and every operation keeps the invariant of the bus. -/

namespace Sys2Proof.Machine

/-! ## Sequencing -/

@[simp] theorem andThen_ok {α β : Type} (v : α) (b : Bus) (k : α → Bus → BusRes β) :
    (BusRes.ok v b).andThen k = k v b := rfl

@[simp] theorem andThen_raised {α β : Type} (f : Fault) (b : Bus) (k : α → Bus → BusRes β) :
    (BusRes.raised f b : BusRes α).andThen k = .raised f b := rfl

/-- A sequence answers exactly when both parts do. -/
theorem andThen_eq_ok {α β : Type} {r : BusRes α} {k : α → Bus → BusRes β} {w : β} {b' : Bus} :
    r.andThen k = .ok w b' ↔ ∃ v b, r = .ok v b ∧ k v b = .ok w b' := by
  cases r with
  | ok v b => exact ⟨fun h => ⟨v, b, rfl, h⟩, by rintro ⟨_, _, h, h'⟩; cases h; exact h'⟩
  | raised f b => simp

/-- A sequence raises when its first part does, or its second after it. -/
theorem andThen_eq_raised {α β : Type} {r : BusRes α} {k : α → Bus → BusRes β} {f : Fault} {b' : Bus} :
    r.andThen k = .raised f b' ↔ r = .raised f b' ∨ ∃ v b, r = .ok v b ∧ k v b = .raised f b' := by
  cases r with
  | ok v b => exact ⟨fun h => .inr ⟨v, b, rfl, h⟩, by rintro (h | ⟨_, _, h, h'⟩) <;> cases h; exact h'⟩
  | raised f b => simp

/-! ## The layout of the registry -/

/-- A binding without the state of its device. -/
def Binding.layout (d : Binding) : Nat × Addr × Addr × DeviceKind :=
  (d.id, d.start, d.stop, match d.kind with
    | .ram => .ram
    | .rom => .rom
    | .peripheral model _ => .peripheral model 0)

/-- Two buses with the same devices at the same ranges. -/
def Bus.SameLayout (b b' : Bus) : Prop := b'.registry.map Binding.layout = b.registry.map Binding.layout

theorem setDeviceState_layout (addr : Addr) (next : Nat) (ds : List Binding) :
    (setDeviceState addr next ds).map Binding.layout = ds.map Binding.layout := by
  induction ds with
  | nil => rfl
  | cons d ds ih =>
    obtain ⟨id, start, stop, kind⟩ := d
    by_cases h : (Binding.mk id start stop kind).owns addr = true
    · cases kind <;> simp [setDeviceState, h, Binding.layout]
    · simp [setDeviceState, h, ih]

theorem registryWfFrom_layout (hi : Nat) : ∀ (ds ds' : List Binding) (lo : Nat),
    ds'.map Binding.layout = ds.map Binding.layout → registryWfFrom hi lo ds' = registryWfFrom hi lo ds
  | [], [], _, _ => rfl
  | [], _ :: _, _, h => by simp at h
  | _ :: _, [], _, h => by simp at h
  | d :: ds, d' :: ds', lo, h => by
    simp only [List.map_cons, List.cons.injEq, Binding.layout, Prod.mk.injEq] at h
    obtain ⟨⟨-, h1, h2, -⟩, h3⟩ := h
    simp [registryWfFrom, h1, h2, registryWfFrom_layout hi ds ds' _ h3]

/-- The kind of the owner of an address, without its state, is a matter of the layout. -/
theorem find_layout (addr : Addr) : ∀ (ds ds' : List Binding),
    ds'.map Binding.layout = ds.map Binding.layout →
    (ds'.find? (·.owns addr)).map Binding.layout = (ds.find? (·.owns addr)).map Binding.layout
  | [], [], _ => rfl
  | [], _ :: _, h => by simp at h
  | _ :: _, [], h => by simp at h
  | d :: ds, d' :: ds', h => by
    simp only [List.map_cons, List.cons.injEq] at h
    obtain ⟨hd, h3⟩ := h
    have ho : d'.owns addr = d.owns addr := by
      simp only [Binding.layout, Prod.mk.injEq] at hd
      obtain ⟨-, h1, h2, -⟩ := hd
      simp [Binding.owns, h1, h2]
    cases hb : d.owns addr
    · simp [List.find?, ho, hb, find_layout addr ds ds' h3]
    · simp [List.find?, ho, hb, hd]

/-- The same devices, and the same stored bytes. -/
def Bus.SameStore (b b' : Bus) : Prop := b.SameLayout b' ∧ b'.mem = b.mem

/-- The same devices, and stored bytes whose canonical form is kept. -/
def Bus.Keeps (b b' : Bus) : Prop := b.SameLayout b' ∧ (Memory.wf b.mem = true → Memory.wf b'.mem = true)

theorem sameStore_refl (b : Bus) : b.SameStore b := ⟨rfl, rfl⟩

theorem sameStore_trans {b b' b'' : Bus} (h : b.SameStore b') (h' : b'.SameStore b'') : b.SameStore b'' :=
  ⟨Eq.trans h'.1 h.1, h'.2.trans h.2⟩

theorem sameStore_keeps {b b' : Bus} (h : b.SameStore b') : b.Keeps b' := ⟨h.1, fun hw => h.2 ▸ hw⟩

theorem keeps_refl (b : Bus) : b.Keeps b := ⟨rfl, id⟩

theorem keeps_trans {b b' b'' : Bus} (h : b.Keeps b') (h' : b'.Keeps b'') : b.Keeps b'' :=
  ⟨Eq.trans h'.1 h.1, fun hw => h'.2 (h.2 hw)⟩

/-- What kept the bus kept the invariant of the state that holds it. -/
theorem busWf_of_keeps {s t : State} (hc : t.cfg = s.cfg) (hb : s.bus.Keeps t.bus) (h : s.busWf = true) :
    t.busWf = true := by
  simp only [State.busWf, Bool.and_eq_true] at h ⊢
  refine ⟨hb.2 h.1, ?_⟩
  rw [registryWf, hc, registryWfFrom_layout _ s.bus.registry t.bus.registry _ hb.1]
  exact h.2

/-- A stored byte is a matter of the layout and the stored bytes. -/
theorem peek_layout {b b' : Bus} (h : b.SameLayout b') (addr : Addr)
    (hm : Memory.read b'.mem addr.toNat = Memory.read b.mem addr.toNat) : b'.peek addr = b.peek addr := by
  have hl := find_layout addr b.registry b'.registry h
  unfold Bus.peek Bus.lookup
  cases h1 : b.registry.find? (·.owns addr) with
  | none =>
    cases h2 : b'.registry.find? (·.owns addr) with
    | none => rfl
    | some d' => simp [h1, h2] at hl
  | some d =>
    cases h2 : b'.registry.find? (·.owns addr) with
    | none => simp [h1, h2] at hl
    | some d' =>
      obtain ⟨id, start, stop, kind⟩ := d
      obtain ⟨id', start', stop', kind'⟩ := d'
      rw [h1, h2] at hl
      cases kind <;> cases kind' <;> simp [Binding.layout] at hl <;> simp [hm]

theorem peek_sameStore {b b' : Bus} (h : b.SameStore b') (addr : Addr) : b'.peek addr = b.peek addr :=
  peek_layout h.1 addr (by rw [h.2])

/-! ## Reads -/

theorem setDevice_sameStore (b : Bus) (addr : Addr) (next : Nat) : b.SameStore (b.setDevice addr next) :=
  ⟨setDeviceState_layout addr next b.registry, rfl⟩

/-- Giving the owner of an address the state that it has changes nothing. -/
theorem setDeviceState_same {addr : Addr} {d : Binding} {model state : Nat} (hk : d.kind = .peripheral model state) :
    ∀ {ds : List Binding}, ds.find? (·.owns addr) = some d → setDeviceState addr state ds = ds
  | [], h => by cases h
  | e :: ds, h => by
    by_cases he : e.owns addr = true
    · simp only [List.find?_cons, he, Option.some.injEq] at h
      subst h
      simp only [setDeviceState, he, if_true, hk]
      rw [← hk]
    · simp only [List.find?_cons, he] at h
      simp [setDeviceState, he, setDeviceState_same hk h]

theorem setDevice_same {b : Bus} {addr : Addr} {d : Binding} {model state : Nat} (hl : b.lookup addr = some d)
    (hk : d.kind = .peripheral model state) : b.setDevice addr state = b := by
  simp [Bus.setDevice, setDeviceState_same hk hl]

/-- An inspector read changes nothing (R78, R80). -/
theorem busRead_inspector_bus (b : Bus) (addr : Addr) : (b.read addr false).bus = b := by
  unfold Bus.read
  split
  · rfl
  · next d hl =>
    split
    · rfl
    · rfl
    · next model state hk =>
      have hs : b.setDevice addr (peripheralRead model state addr false).next = b := setDevice_same hl hk
      dsimp only
      rw [hs]
      split <;> rfl

/-- What an inspector read returns, a processor read at that moment would return (R78). -/
theorem busRead_processor_of_inspector {b b' : Bus} {addr : Addr} {v : Byte} (h : b.read addr false = .ok v b') :
    ∃ b'', b.read addr true = .ok v b'' := by
  unfold Bus.read at h ⊢
  split at h
  · cases h
  · split at h
    · cases h
      exact ⟨_, rfl⟩
    · cases h
      exact ⟨_, rfl⟩
    · next model state _ =>
      cases hf : (Config.deviceRead model state addr false).value <;>
        cases ht : (Config.deviceRead model state addr true).value <;> simp [peripheralRead, hf, ht] at h
      obtain ⟨rfl, -⟩ := h
      simp [peripheralRead, ht]

/-- A read changes at most the state of the device it reads, whether it answers or raises. -/
theorem busRead_sameStore (b : Bus) (addr : Addr) (p : Bool) : b.SameStore (b.read addr p).bus := by
  unfold Bus.read
  split
  · exact sameStore_refl b
  · split
    · exact sameStore_refl b
    · exact sameStore_refl b
    · dsimp only
      split <;> exact setDevice_sameStore ..

theorem memRead_sameStore (addr : Addr) (b : Bus) : b.SameStore (memRead addr b).bus := busRead_sameStore b addr true

/-- Sequencing of operations that keep the store. -/
theorem andThen_sameStore {α β : Type} {b : Bus} {r : BusRes α} {k : α → Bus → BusRes β} (hr : b.SameStore r.bus)
    (hk : ∀ v b', r = .ok v b' → b'.SameStore (k v b').bus) : b.SameStore (r.andThen k).bus := by
  cases r with
  | ok v b' => exact sameStore_trans hr (hk v b' rfl)
  | raised f b' => exact hr

theorem andThen_keeps {α β : Type} {b : Bus} {r : BusRes α} {k : α → Bus → BusRes β} (hr : b.Keeps r.bus)
    (hk : ∀ v b', r = .ok v b' → b'.Keeps (k v b').bus) : b.Keeps (r.andThen k).bus := by
  cases r with
  | ok v b' => exact keeps_trans hr (hk v b' rfl)
  | raised f b' => exact hr

theorem readPointer_sameStore (lo hi : Addr) (b : Bus) : b.SameStore (readPointer lo hi b).bus :=
  andThen_sameStore (memRead_sameStore lo b) fun _ b' _ =>
    andThen_sameStore (memRead_sameStore hi b') fun _ b'' _ => sameStore_refl b''

/-- Where a reference device owns the address, a read of either origin gives its byte and changes nothing (R86, R87). -/
theorem busRead_of_peek {b : Bus} {addr : Addr} {v : Byte} (h : b.peek addr = some v) (p : Bool) :
    b.read addr p = .ok v b := by
  unfold Bus.peek at h
  unfold Bus.read
  split at h
  · cases h
  · split at h
    · cases h; simp_all
    · cases h; simp_all
    · cases h

theorem memRead_of_peek {b : Bus} {addr : Addr} {v : Byte} (h : b.peek addr = some v) : memRead addr b = .ok v b :=
  busRead_of_peek h true

theorem readPointer_of_peek {b : Bus} {lo hi : Addr} {l h : Byte} (hl : b.peek lo = some l) (hh : b.peek hi = some h) :
    readPointer lo hi b = .ok (word h l) b := by
  simp [readPointer, memRead_of_peek hl, memRead_of_peek hh]

/-! ## Writes -/

/-- A write keeps the layout, and stores at most the byte it is given, at the address it is given. -/
theorem busWrite_cases (b : Bus) (addr : Addr) (v : Byte) (p : Bool) :
    b.SameStore (b.write addr v p).bus ∨
      (b.write addr v p = .ok () { b with mem := Memory.write b.mem addr.toNat v }) := by
  unfold Bus.write
  split
  · exact .inl (sameStore_refl b)
  · split
    · exact .inr rfl
    · cases p
      · exact .inr rfl
      · exact .inl (sameStore_refl b)
    · dsimp only
      split <;> exact .inl (setDevice_sameStore ..)

theorem busWrite_keeps (b : Bus) (addr : Addr) (v : Byte) (p : Bool) : b.Keeps (b.write addr v p).bus := by
  rcases busWrite_cases b addr v p with h | h
  · exact sameStore_keeps h
  · rw [h]; exact ⟨rfl, memory_wf_write addr v⟩

theorem memWrite_keeps (addr : Addr) (v : Byte) (b : Bus) : b.Keeps (memWrite addr v b).bus :=
  busWrite_keeps b addr v true

/-- Every other stored byte is as before a write. -/
theorem busWrite_peek_other (b : Bus) (addr other : Addr) (v : Byte) (p : Bool) (h : other ≠ addr) :
    (b.write addr v p).bus.peek other = b.peek other := by
  rcases busWrite_cases b addr v p with hs | hw
  · exact peek_sameStore hs other
  · rw [hw]
    show ({ b with mem := Memory.write b.mem addr.toNat v } : Bus).peek other = b.peek other
    exact peek_layout (b := b) (b' := { b with mem := Memory.write b.mem addr.toNat v }) rfl other
      (memory_read_write_other b.mem addr.toNat other.toNat v (fun he => h (BitVec.eq_of_toNat_eq he)))

/-- A reference RAM takes the byte (R86). -/
theorem memWrite_of_writable {b : Bus} {addr : Addr} (h : b.writable addr) (v : Byte) :
    memWrite addr v b = .ok () { b with mem := Memory.write b.mem addr.toNat v } := by
  obtain ⟨d, hl, hk⟩ := h
  simp [memWrite, Bus.write, hl, hk]

/-- The stored byte after a write to a reference RAM (R86, R95). -/
theorem peek_write_same {b : Bus} {addr : Addr} (h : b.writable addr) (v : Byte) (hm : Memory.wf b.mem = true) :
    ({ b with mem := Memory.write b.mem addr.toNat v } : Bus).peek addr = some v := by
  obtain ⟨d, hl, hk⟩ := h
  have : Bus.lookup { b with mem := Memory.write b.mem addr.toNat v } addr = some d := hl
  simp [Bus.peek, this, hk, memory_read_write_same b.mem addr.toNat v hm]

/-! ## The stack, and the entry to a handler -/

theorem push_keeps (v sp : Byte) (b : Bus) : b.Keeps (push v sp b).bus :=
  andThen_keeps (memWrite_keeps _ v b) fun _ b' _ => keeps_refl b'

theorem pull_sameStore (sp : Byte) (b : Bus) : b.SameStore (pull sp b).bus :=
  andThen_sameStore (memRead_sameStore _ b) fun _ b' _ => sameStore_refl b'

theorem push_of_writable {b : Bus} {sp : Byte} (h : b.writable (stackAddr sp)) (v : Byte) :
    push v sp b = .ok (sp - 1#8) { b with mem := Memory.write b.mem (stackAddr sp).toNat v } := by
  simp [push, memWrite_of_writable h]

theorem pull_of_peek {b : Bus} {sp v : Byte} (h : b.peek (stackAddr (sp + 1#8)) = some v) :
    pull sp b = .ok (v, sp + 1#8) b := by
  simp [pull, memRead_of_peek h]

theorem enterHandler_keeps (cfg : Config) (brk : Bool) (vector : Addr) (cpu : CpuState) (b : Bus) :
    b.Keeps (enterHandler cfg brk vector cpu b).bus :=
  andThen_keeps (push_keeps ..) fun _ b' _ =>
    andThen_keeps (push_keeps _ _ b') fun _ b' _ =>
      andThen_keeps (push_keeps _ _ b') fun _ b' _ =>
        andThen_keeps (sameStore_keeps (readPointer_sameStore _ _ b')) fun _ b' _ => keeps_refl b'

theorem leaveHandler_sameStore (cpu : CpuState) (b : Bus) : b.SameStore (leaveHandler cpu b).bus :=
  andThen_sameStore (pull_sameStore _ b) fun _ b' _ =>
    andThen_sameStore (pull_sameStore _ b') fun _ b' _ =>
      andThen_sameStore (pull_sameStore _ b') fun _ b' _ => sameStore_refl b'

/-- What the entry to a handler leaves of the processor state (R350): everything but SP, I, D and PC. -/
theorem enterHandler_ok {cfg : Config} {brk : Bool} {vector : Addr} {cpu cpu' : CpuState} {b b' : Bus}
    (h : enterHandler cfg brk vector cpu b = .ok cpu' b') :
    ∃ pc, cpu' = { cpu with
      sp := cpu.sp - 1#8 - 1#8 - 1#8, i := true, d := if cfg.isCmos then false else cpu.d, pc := pc } := by
  simp only [enterHandler, push, andThen_eq_ok, BusRes.ok.injEq] at h
  obtain ⟨_, _, ⟨_, _, _, rfl, rfl⟩, _, _, ⟨_, _, _, rfl, rfl⟩, _, _, ⟨_, _, _, rfl, rfl⟩, pc, _, _, rfl, rfl⟩ := h
  exact ⟨pc, rfl⟩

/-- What the return from a handler leaves of the processor state (R315): everything but the flags, SP and PC. -/
theorem leaveHandler_ok {cpu cpu' : CpuState} {b b' : Bus} (h : leaveHandler cpu b = .ok cpu' b') :
    ∃ p pc, cpu' = { cpu.unpackP p with sp := cpu.sp + 1#8 + 1#8 + 1#8, pc := pc } := by
  simp only [leaveHandler, pull, andThen_eq_ok, BusRes.ok.injEq] at h
  obtain ⟨_, _, ⟨_, _, _, rfl, rfl⟩, _, _, ⟨_, _, _, rfl, rfl⟩, _, _, ⟨_, _, _, rfl, rfl⟩, rfl, rfl⟩ := h
  exact ⟨_, _, rfl⟩

end Sys2Proof.Machine
end

