-- ==== Sys2Proof/Laws/Operands.lean ====
section
/-! SUPPORT. What the operand resolver and the shared instruction shapes can do, said once: resolution keeps the stored
bytes and looks at X, Y and the bus alone, and each shape ends in the next state of its accesses or in an abandoned
step. -/

namespace Sys2Proof.Machine

/-! ## The resolver -/

/-- Resolution does not look at what the fetch has changed. -/
@[simp] theorem resolve_fetched (cfg : Config) (cpu : CpuState) (i : Instr) (m : MemMode) (b : Bus) :
    resolve cfg (cpu.fetched i) m b = resolve cfg cpu m b := by
  cases m <;> rfl

@[simp] theorem operandValue_fetched (cfg : Config) (cpu : CpuState) (i : Instr) (o : ReadOperand) (b : Bus) :
    operandValue cfg (cpu.fetched i) o b = operandValue cfg cpu o b := by
  cases o with
  | imm v => rfl
  | mem m => simp only [operandValue, resolve_fetched]

/-- Resolution never writes memory (R140). -/
theorem resolve_sameStore (cfg : Config) (cpu : CpuState) (m : MemMode) (b : Bus) :
    b.SameStore (resolve cfg cpu m b).bus := by
  cases m <;>
    first
    | exact sameStore_refl b
    | exact andThen_sameStore (readPointer_sameStore _ _ b) fun _ b' _ => sameStore_refl b'

theorem operandValue_sameStore (cfg : Config) (cpu : CpuState) (o : ReadOperand) (b : Bus) :
    b.SameStore (operandValue cfg cpu o b).bus := by
  cases o with
  | imm v => exact sameStore_refl b
  | mem m =>
    exact andThen_sameStore (resolve_sameStore cfg cpu m b) fun r b' _ =>
      andThen_sameStore (memRead_sameStore r.ea b') fun _ b'' _ => sameStore_refl b''

/-! ## Which faults an access raises (R331) -/

/-- A processor read raises UnmappedAddress or DeviceError, in the read direction. -/
theorem memRead_raised {addr : Addr} {b b' : Bus} {f : Fault} (h : memRead addr b = .raised f b') :
    f = .unmappedAddress addr .read ∨ f = .deviceError addr .read := by
  unfold memRead Bus.read at h
  split at h
  · cases h; exact .inl rfl
  · split at h
    · cases h
    · cases h
    · dsimp only at h
      split at h
      · cases h
      · cases h; exact .inr rfl

/-- A processor write raises UnmappedAddress, ReadOnlyViolation or DeviceError, in the write direction. -/
theorem memWrite_raised {addr : Addr} {v : Byte} {b b' : Bus} {f : Fault} (h : memWrite addr v b = .raised f b') :
    f = .unmappedAddress addr .write ∨ f = .readOnlyViolation addr ∨ f = .deviceError addr .write := by
  unfold memWrite Bus.write at h
  split at h
  · cases h; exact .inl rfl
  · split at h
    · cases h
    · cases h; exact .inr (.inl rfl)
    · dsimp only at h
      split at h <;> cases h
      · exact .inr (.inl rfl)
      · exact .inr (.inr rfl)

/-- A pointer read raises what one of its two reads raises. -/
theorem readPointer_raised {lo hi : Addr} {b b' : Bus} {f : Fault} (h : readPointer lo hi b = .raised f b') :
    ∃ addr, f = .unmappedAddress addr .read ∨ f = .deviceError addr .read := by
  simp only [readPointer, andThen_eq_raised] at h
  rcases h with h | ⟨_, _, _, h | ⟨_, _, _, h⟩⟩
  · exact ⟨lo, memRead_raised h⟩
  · exact ⟨hi, memRead_raised h⟩
  · cases h

/-- A resolution raises a read fault. -/
theorem resolve_raised {cfg : Config} {cpu : CpuState} {m : MemMode} {b b' : Bus} {f : Fault}
    (h : resolve cfg cpu m b = .raised f b') :
    ∃ addr, f = .unmappedAddress addr .read ∨ f = .deviceError addr .read := by
  cases m <;> simp only [resolve, andThen_eq_raised, reduceCtorEq, and_false, exists_false, or_false] at h <;>
    exact readPointer_raised h

/-- A read-class operand raises a read fault. -/
theorem operandValue_raised {cfg : Config} {cpu : CpuState} {o : ReadOperand} {b b' : Bus} {f : Fault}
    (h : operandValue cfg cpu o b = .raised f b') :
    ∃ addr, f = .unmappedAddress addr .read ∨ f = .deviceError addr .read := by
  cases o with
  | imm v => cases h
  | mem m =>
    simp only [operandValue, andThen_eq_raised] at h
    rcases h with h | ⟨r, _, _, h | ⟨_, _, _, h⟩⟩
    · exact resolve_raised h
    · exact ⟨r.ea, memRead_raised h⟩
    · cases h

/-! ## The shapes of instruction -/

/-- The state after an instruction that completed with the effect `e` and left the bus `b`. -/
def State.completed (s : State) (i : Instr) (e : Effect) (b : Bus) : State :=
  { s with cpu := { e.cpu with cycles := e.cpu.cycles + (i.baseCycles s.cfg + e.extra) }, bus := b }

theorem runInstr_ok {i : Instr} {s : State} {body : CpuState → Bus → BusRes Effect} {e : Effect} {b : Bus}
    (h : body (s.cpu.fetched i) s.bus = .ok e b) : runInstr i s body = .next (s.completed i e b) := by
  simp only [runInstr, h, State.completed]

theorem runInstr_raised {i : Instr} {s : State} {body : CpuState → Bus → BusRes Effect} {f : Fault} {b : Bus}
    (h : body (s.cpu.fetched i) s.bus = .raised f b) : runInstr i s body = .next (s.abandon f b) := by
  simp only [runInstr, h]

/-- A run instruction completes or is abandoned, as its body answers or raises. -/
theorem runInstr_cases {i : Instr} {s t : State} {body : CpuState → Bus → BusRes Effect}
    (h : runInstr i s body = .next t) :
    (∃ e b, body (s.cpu.fetched i) s.bus = .ok e b ∧ t = s.completed i e b) ∨
      (∃ f b, body (s.cpu.fetched i) s.bus = .raised f b ∧ t = s.abandon f b) := by
  cases hb : body (s.cpu.fetched i) s.bus with
  | ok e b =>
    rw [runInstr_ok hb] at h
    exact .inl ⟨e, b, rfl, by cases h; rfl⟩
  | raised f b =>
    rw [runInstr_raised hb] at h
    exact .inr ⟨f, b, rfl, by cases h; rfl⟩

theorem runRegister_eq (i : Instr) (s : State) (f : CpuState → CpuState) :
    runRegister i s f = .next (s.completed i { cpu := f (s.cpu.fetched i) } s.bus) := rfl

theorem runRead_ok {i : Instr} {o : ReadOperand} {s : State} {f : Byte → CpuState → CpuState} {extra : Nat}
    {r : OperandValue} {b : Bus} (h : operandValue s.cfg s.cpu o s.bus = .ok r b) :
    runRead i o s f extra = .next (s.completed i
      { cpu := f r.value (s.cpu.fetched i), extra := pageExtra s.cfg i r.crossed + extra } b) :=
  runInstr_ok (by simp [h])

theorem runRead_raised {i : Instr} {o : ReadOperand} {s : State} {f : Byte → CpuState → CpuState} {extra : Nat}
    {fault : Fault} {b : Bus} (h : operandValue s.cfg s.cpu o s.bus = .raised fault b) :
    runRead i o s f extra = .next (s.abandon fault b) :=
  runInstr_raised (by simp [h])

theorem runStore_ok {i : Instr} {m : MemMode} {s : State} {f : CpuState → Byte} {r : Resolved} {b b' : Bus}
    (h : resolve s.cfg s.cpu m s.bus = .ok r b) (hw : memWrite r.ea (f (s.cpu.fetched i)) b = .ok () b') :
    runStore i m s f = .next (s.completed i { cpu := s.cpu.fetched i } b') :=
  runInstr_ok (by simp [h, hw])

theorem runStore_unresolved {i : Instr} {m : MemMode} {s : State} {f : CpuState → Byte} {fault : Fault} {b : Bus}
    (h : resolve s.cfg s.cpu m s.bus = .raised fault b) : runStore i m s f = .next (s.abandon fault b) :=
  runInstr_raised (by simp [h])

theorem runStore_raised {i : Instr} {m : MemMode} {s : State} {f : CpuState → Byte} {r : Resolved} {fault : Fault}
    {b b' : Bus} (h : resolve s.cfg s.cpu m s.bus = .ok r b)
    (hw : memWrite r.ea (f (s.cpu.fetched i)) b = .raised fault b') :
    runStore i m s f = .next (s.abandon fault b') :=
  runInstr_raised (by simp [h, hw])

theorem runModify_ok {i : Instr} {m : MemMode} {s : State} {f : Byte → CpuState → Byte}
    {g : Byte → CpuState → CpuState} {r : Resolved} {v : Byte} {b b' b'' : Bus}
    (h : resolve s.cfg s.cpu m s.bus = .ok r b) (hr : memRead r.ea b = .ok v b')
    (hw : memWrite r.ea (f v (s.cpu.fetched i)) b' = .ok () b'') :
    runModify i m s f g = .next (s.completed i
      { cpu := g v (s.cpu.fetched i), extra := pageExtra s.cfg i r.crossed } b'') :=
  runInstr_ok (by simp [h, hr, hw])

theorem runModify_unresolved {i : Instr} {m : MemMode} {s : State} {f : Byte → CpuState → Byte}
    {g : Byte → CpuState → CpuState} {fault : Fault} {b : Bus}
    (h : resolve s.cfg s.cpu m s.bus = .raised fault b) : runModify i m s f g = .next (s.abandon fault b) :=
  runInstr_raised (by simp [h])

theorem runModify_unread {i : Instr} {m : MemMode} {s : State} {f : Byte → CpuState → Byte}
    {g : Byte → CpuState → CpuState} {r : Resolved} {fault : Fault} {b b' : Bus}
    (h : resolve s.cfg s.cpu m s.bus = .ok r b) (hr : memRead r.ea b = .raised fault b') :
    runModify i m s f g = .next (s.abandon fault b') :=
  runInstr_raised (by simp [h, hr])

theorem runModify_raised {i : Instr} {m : MemMode} {s : State} {f : Byte → CpuState → Byte}
    {g : Byte → CpuState → CpuState} {r : Resolved} {v : Byte} {fault : Fault} {b b' b'' : Bus}
    (h : resolve s.cfg s.cpu m s.bus = .ok r b) (hr : memRead r.ea b = .ok v b')
    (hw : memWrite r.ea (f v (s.cpu.fetched i)) b' = .raised fault b'') :
    runModify i m s f g = .next (s.abandon fault b'') :=
  runInstr_raised (by simp [h, hr, hw])

/-! ## What each shape leaves of the bus -/

/-- What is true of a bus after the body of an instruction is true of the bus of its next state. -/
theorem runInstr_bus {P : Bus → Prop} {i : Instr} {s t : State} {body : CpuState → Bus → BusRes Effect}
    (hb : P (body (s.cpu.fetched i) s.bus).bus) (h : runInstr i s body = .next t) : P t.bus := by
  rcases runInstr_cases h with ⟨e, b, he, rfl⟩ | ⟨f, b, he, rfl⟩ <;> rw [he] at hb <;> exact hb

theorem runRead_sameStore {i : Instr} {o : ReadOperand} {s t : State} {f : Byte → CpuState → CpuState} {extra : Nat}
    (h : runRead i o s f extra = .next t) : s.bus.SameStore t.bus := by
  refine runInstr_bus (P := s.bus.SameStore) ?_ h
  exact andThen_sameStore (operandValue_sameStore ..) fun _ b _ => sameStore_refl b

theorem runStore_keeps {i : Instr} {m : MemMode} {s t : State} {f : CpuState → Byte}
    (h : runStore i m s f = .next t) : s.bus.Keeps t.bus := by
  refine runInstr_bus (P := s.bus.Keeps) ?_ h
  exact andThen_keeps (sameStore_keeps (resolve_sameStore ..)) fun r b _ =>
    andThen_keeps (memWrite_keeps r.ea _ b) fun _ b _ => keeps_refl b

theorem runModify_keeps {i : Instr} {m : MemMode} {s t : State} {f : Byte → CpuState → Byte}
    {g : Byte → CpuState → CpuState} (h : runModify i m s f g = .next t) : s.bus.Keeps t.bus := by
  refine runInstr_bus (P := s.bus.Keeps) ?_ h
  exact andThen_keeps (sameStore_keeps (resolve_sameStore ..)) fun r b _ =>
    andThen_keeps (sameStore_keeps (memRead_sameStore r.ea b)) fun _ b _ =>
      andThen_keeps (memWrite_keeps r.ea _ b) fun _ b _ => keeps_refl b

end Sys2Proof.Machine
end

