-- ==== Sys2Proof/Laws/Fetch.lean ====
section
/-! SUPPORT. The fetch: what it leaves of the bus, and what it reads from stored bytes. -/

namespace Sys2Proof.Machine

/-- A fetch keeps the stored bytes. -/
theorem fetch_sameStore (cfg : Config) (pc : Addr) (b : Bus) : b.SameStore (fetch cfg pc b).bus := by
  refine andThen_sameStore (memRead_sameStore pc b) fun op b _ => ?_
  split
  · exact sameStore_refl b
  · exact andThen_sameStore (memRead_sameStore _ b) fun _ b _ => sameStore_refl b
  · exact andThen_sameStore (memRead_sameStore _ b) fun _ b _ =>
      andThen_sameStore (memRead_sameStore _ b) fun _ b _ => sameStore_refl b

/-- A fetch raises a read fault. -/
theorem fetch_raised {cfg : Config} {pc : Addr} {b b' : Bus} {f : Fault} (h : fetch cfg pc b = .raised f b') :
    ∃ addr, f = .unmappedAddress addr .read ∨ f = .deviceError addr .read := by
  rw [fetch, andThen_eq_raised] at h
  rcases h with h | ⟨op, b1, -, h⟩
  · exact ⟨_, memRead_raised h⟩
  · split at h
    · cases h
    · rw [andThen_eq_raised] at h
      rcases h with h | ⟨_, _, -, h⟩
      · exact ⟨_, memRead_raised h⟩
      · cases h
    · rw [andThen_eq_raised] at h
      rcases h with h | ⟨_, _, -, h⟩
      · exact ⟨_, memRead_raised h⟩
      · rw [andThen_eq_raised] at h
        rcases h with h | ⟨_, _, -, h⟩
        · exact ⟨_, memRead_raised h⟩
        · cases h

/-- The opcode in the reference devices at `pc`, and the fetch of an instruction of one byte. -/
theorem fetch_one {cfg : Config} {pc : Addr} {b : Bus} {op : Byte} (h : b.peek pc = some op)
    (hl : (descOf cfg op).length = 1) : fetch cfg pc b = .ok (instrOf cfg op 0#8 0#8) b := by
  simp [fetch, memRead_of_peek h, hl]

theorem fetch_two {cfg : Config} {pc : Addr} {b : Bus} {op op1 : Byte} (h : b.peek pc = some op)
    (h1 : b.peek (pc + 1#16) = some op1) (hl : (descOf cfg op).length = 2) :
    fetch cfg pc b = .ok (instrOf cfg op op1 0#8) b := by
  simp [fetch, memRead_of_peek h, memRead_of_peek h1, hl]

theorem fetch_three {cfg : Config} {pc : Addr} {b : Bus} {op op1 op2 : Byte} (h : b.peek pc = some op)
    (h1 : b.peek (pc + 1#16) = some op1) (h2 : b.peek (pc + 2#16) = some op2)
    (hl : (descOf cfg op).length = 3) : fetch cfg pc b = .ok (instrOf cfg op op1 op2) b := by
  simp [fetch, memRead_of_peek h, memRead_of_peek h1, memRead_of_peek h2, hl]

/-- What the entry to a handler in an interrupt leaves: the state abandoned, or the entered one (R350). -/
theorem takeInterrupt_cases (src : Source) (s : State) :
    (∃ f b, takeInterrupt src s = s.abandon f b ∧ s.bus.Keeps b) ∨
      (∃ pc b, s.bus.Keeps b ∧ takeInterrupt src s = { s with
        cpu := { s.cpu with
          sp := s.cpu.sp - 1#8 - 1#8 - 1#8, i := true, d := if s.cfg.isCmos then false else s.cpu.d, pc := pc,
          nmiPending := src.latchAfter s.cpu.nmiPending, run := .running, cycles := s.cpu.cycles + 7 }
        bus := b }) := by
  have hk := enterHandler_keeps s.cfg false src.vector
    { s.cpu with nmiPending := src.latchAfter s.cpu.nmiPending, run := .running } s.bus
  cases he : enterHandler s.cfg false src.vector
      { s.cpu with nmiPending := src.latchAfter s.cpu.nmiPending, run := .running } s.bus with
  | ok cpu b =>
    rw [he] at hk
    obtain ⟨pc, rfl⟩ := enterHandler_ok he
    exact .inr ⟨pc, b, hk, by simp only [takeInterrupt, he]⟩
  | raised f b =>
    rw [he] at hk
    exact .inl ⟨f, b, by simp only [takeInterrupt, he], hk⟩

end Sys2Proof.Machine
end

