-- ==== Sys2Proof/Laws/Flags.lean ====
section
/-! SUPPORT. The bits of the status byte, and the flag computations as numbers. -/

namespace Sys2Proof.Machine

theorem packBits (n v b d i z c : Bool) :
    let p : Byte := BitVec.ofBool n ++ BitVec.ofBool v ++ 1#1 ++ BitVec.ofBool b ++
      BitVec.ofBool d ++ BitVec.ofBool i ++ BitVec.ofBool z ++ BitVec.ofBool c
    p.getLsbD 7 = n ∧ p.getLsbD 6 = v ∧ p.getLsbD 5 = true ∧ p.getLsbD 4 = b ∧ p.getLsbD 3 = d ∧
      p.getLsbD 2 = i ∧ p.getLsbD 1 = z ∧ p.getLsbD 0 = c := by
  revert n v b d i z c; decide

/-- Unpacking a packed status byte gives the flags back, with the break value for B; bit 5 is 1 (R42, R45, R46). -/
theorem unpackP_packP (cpu cpu' : CpuState) (brk : Bool) :
    cpu.unpackP (cpu'.packP brk) =
      { cpu with n := cpu'.n, v := cpu'.v, b := brk, d := cpu'.d, i := cpu'.i, z := cpu'.z, c := cpu'.c } := by
  obtain ⟨h7, h6, -, h4, h3, h2, h1, h0⟩ := packBits cpu'.n cpu'.v brk cpu'.d cpu'.i cpu'.z cpu'.c
  simp only [CpuState.unpackP, CpuState.packP, h7, h6, h4, h3, h2, h1, h0]

theorem packP_bit5 (cpu : CpuState) (brk : Bool) : (cpu.packP brk).getLsbD 5 = true :=
  (packBits cpu.n cpu.v brk cpu.d cpu.i cpu.z cpu.c).2.2.1

/-- Bit 7 as a number (R14). -/
theorem bit7_eq_decide (v : Byte) : v.getLsbD 7 = decide (128 ≤ v.toNat) := by
  have := BitVec.msb_eq_decide v
  simpa [BitVec.msb_eq_getLsbD_last] using this

/-- A byte as a signed number (R14). -/
theorem byte_toInt (v : Byte) : v.toInt = if 128 ≤ v.toNat then (v.toNat : Int) - 256 else v.toNat := by
  rw [BitVec.toInt_eq_toNat_cond]
  have : v.toNat < 256 := v.isLt
  split <;> split <;> omega

end Sys2Proof.Machine
end

