-- ==== Sys2Proof/Laws/PerInstr.lean ====
section
/-! SUPPORT. Statements about every instruction, one lemma per constructor. -/

namespace Sys2Proof.Laws.Encodes

/-- A well-formed instruction has an opcode, whose descriptor gives it the length that its operand bytes make. -/
def Statement (i : Instr) : Prop :=
  ∀ cfg : Config, i.wellFormed cfg = true → ∃ op, i.opcode? = some op ∧ (descOf cfg op).length = i.length

/-- A form that the configuration does not have is not well-formed. -/
theorem absent {P : Prop} (h : false = true) : P := absurd h Bool.false_ne_true

theorem lda (o : ReadOperand) : Statement (.lda o) := by
  rintro ⟨v, dc, bo, ws, lo, hi⟩ h
  rcases o with _ | m
  · cases v <;> exact ⟨_, rfl, rfl⟩
  · cases v <;> cases m <;> first | exact ⟨_, rfl, rfl⟩ | exact absent h

theorem ldx (o : ReadOperand) : Statement (.ldx o) := by
  rintro ⟨v, dc, bo, ws, lo, hi⟩ h
  rcases o with _ | m
  · cases v <;> exact ⟨_, rfl, rfl⟩
  · cases v <;> cases m <;> first | exact ⟨_, rfl, rfl⟩ | exact absent h

theorem ldy (o : ReadOperand) : Statement (.ldy o) := by
  rintro ⟨v, dc, bo, ws, lo, hi⟩ h
  rcases o with _ | m
  · cases v <;> exact ⟨_, rfl, rfl⟩
  · cases v <;> cases m <;> first | exact ⟨_, rfl, rfl⟩ | exact absent h

theorem sta (m : MemMode) : Statement (.sta m) := by
  rintro ⟨v, dc, bo, ws, lo, hi⟩ h
  cases v <;> cases m <;> first | exact ⟨_, rfl, rfl⟩ | exact absent h

theorem stx (m : MemMode) : Statement (.stx m) := by
  rintro ⟨v, dc, bo, ws, lo, hi⟩ h
  cases v <;> cases m <;> first | exact ⟨_, rfl, rfl⟩ | exact absent h

theorem sty (m : MemMode) : Statement (.sty m) := by
  rintro ⟨v, dc, bo, ws, lo, hi⟩ h
  cases v <;> cases m <;> first | exact ⟨_, rfl, rfl⟩ | exact absent h

theorem stz (m : MemMode) : Statement (.stz m) := by
  rintro ⟨v, dc, bo, ws, lo, hi⟩ h
  cases v <;> cases m <;> first | exact ⟨_, rfl, rfl⟩ | exact absent h

theorem tax : Statement .tax := by
  rintro ⟨v, dc, bo, ws, lo, hi⟩ h
  cases v <;> exact ⟨_, rfl, rfl⟩

theorem tay : Statement .tay := by
  rintro ⟨v, dc, bo, ws, lo, hi⟩ h
  cases v <;> exact ⟨_, rfl, rfl⟩

theorem txa : Statement .txa := by
  rintro ⟨v, dc, bo, ws, lo, hi⟩ h
  cases v <;> exact ⟨_, rfl, rfl⟩

theorem tya : Statement .tya := by
  rintro ⟨v, dc, bo, ws, lo, hi⟩ h
  cases v <;> exact ⟨_, rfl, rfl⟩

theorem tsx : Statement .tsx := by
  rintro ⟨v, dc, bo, ws, lo, hi⟩ h
  cases v <;> exact ⟨_, rfl, rfl⟩

theorem txs : Statement .txs := by
  rintro ⟨v, dc, bo, ws, lo, hi⟩ h
  cases v <;> exact ⟨_, rfl, rfl⟩

theorem adc (o : ReadOperand) : Statement (.adc o) := by
  rintro ⟨v, dc, bo, ws, lo, hi⟩ h
  rcases o with _ | m
  · cases v <;> exact ⟨_, rfl, rfl⟩
  · cases v <;> cases m <;> first | exact ⟨_, rfl, rfl⟩ | exact absent h

theorem sbc (o : ReadOperand) : Statement (.sbc o) := by
  rintro ⟨v, dc, bo, ws, lo, hi⟩ h
  rcases o with _ | m
  · cases v <;> exact ⟨_, rfl, rfl⟩
  · cases v <;> cases m <;> first | exact ⟨_, rfl, rfl⟩ | exact absent h

theorem inc (o : RmwOperand) : Statement (.inc o) := by
  rintro ⟨v, dc, bo, ws, lo, hi⟩ h
  rcases o with _ | m
  · cases v <;> exact ⟨_, rfl, rfl⟩
  · cases v <;> cases m <;> first | exact ⟨_, rfl, rfl⟩ | exact absent h

theorem dec (o : RmwOperand) : Statement (.dec o) := by
  rintro ⟨v, dc, bo, ws, lo, hi⟩ h
  rcases o with _ | m
  · cases v <;> exact ⟨_, rfl, rfl⟩
  · cases v <;> cases m <;> first | exact ⟨_, rfl, rfl⟩ | exact absent h

theorem inx : Statement .inx := by
  rintro ⟨v, dc, bo, ws, lo, hi⟩ h
  cases v <;> exact ⟨_, rfl, rfl⟩

theorem iny : Statement .iny := by
  rintro ⟨v, dc, bo, ws, lo, hi⟩ h
  cases v <;> exact ⟨_, rfl, rfl⟩

theorem dex : Statement .dex := by
  rintro ⟨v, dc, bo, ws, lo, hi⟩ h
  cases v <;> exact ⟨_, rfl, rfl⟩

theorem dey : Statement .dey := by
  rintro ⟨v, dc, bo, ws, lo, hi⟩ h
  cases v <;> exact ⟨_, rfl, rfl⟩

theorem asl (o : RmwOperand) : Statement (.asl o) := by
  rintro ⟨v, dc, bo, ws, lo, hi⟩ h
  rcases o with _ | m
  · cases v <;> exact ⟨_, rfl, rfl⟩
  · cases v <;> cases m <;> first | exact ⟨_, rfl, rfl⟩ | exact absent h

theorem lsr (o : RmwOperand) : Statement (.lsr o) := by
  rintro ⟨v, dc, bo, ws, lo, hi⟩ h
  rcases o with _ | m
  · cases v <;> exact ⟨_, rfl, rfl⟩
  · cases v <;> cases m <;> first | exact ⟨_, rfl, rfl⟩ | exact absent h

theorem rol (o : RmwOperand) : Statement (.rol o) := by
  rintro ⟨v, dc, bo, ws, lo, hi⟩ h
  rcases o with _ | m
  · cases v <;> exact ⟨_, rfl, rfl⟩
  · cases v <;> cases m <;> first | exact ⟨_, rfl, rfl⟩ | exact absent h

theorem ror (o : RmwOperand) : Statement (.ror o) := by
  rintro ⟨v, dc, bo, ws, lo, hi⟩ h
  rcases o with _ | m
  · cases v <;> exact ⟨_, rfl, rfl⟩
  · cases v <;> cases m <;> first | exact ⟨_, rfl, rfl⟩ | exact absent h

theorem and (o : ReadOperand) : Statement (.and o) := by
  rintro ⟨v, dc, bo, ws, lo, hi⟩ h
  rcases o with _ | m
  · cases v <;> exact ⟨_, rfl, rfl⟩
  · cases v <;> cases m <;> first | exact ⟨_, rfl, rfl⟩ | exact absent h

theorem ora (o : ReadOperand) : Statement (.ora o) := by
  rintro ⟨v, dc, bo, ws, lo, hi⟩ h
  rcases o with _ | m
  · cases v <;> exact ⟨_, rfl, rfl⟩
  · cases v <;> cases m <;> first | exact ⟨_, rfl, rfl⟩ | exact absent h

theorem eor (o : ReadOperand) : Statement (.eor o) := by
  rintro ⟨v, dc, bo, ws, lo, hi⟩ h
  rcases o with _ | m
  · cases v <;> exact ⟨_, rfl, rfl⟩
  · cases v <;> cases m <;> first | exact ⟨_, rfl, rfl⟩ | exact absent h

theorem cmp (o : ReadOperand) : Statement (.cmp o) := by
  rintro ⟨v, dc, bo, ws, lo, hi⟩ h
  rcases o with _ | m
  · cases v <;> exact ⟨_, rfl, rfl⟩
  · cases v <;> cases m <;> first | exact ⟨_, rfl, rfl⟩ | exact absent h

theorem cpx (o : ReadOperand) : Statement (.cpx o) := by
  rintro ⟨v, dc, bo, ws, lo, hi⟩ h
  rcases o with _ | m
  · cases v <;> exact ⟨_, rfl, rfl⟩
  · cases v <;> cases m <;> first | exact ⟨_, rfl, rfl⟩ | exact absent h

theorem cpy (o : ReadOperand) : Statement (.cpy o) := by
  rintro ⟨v, dc, bo, ws, lo, hi⟩ h
  rcases o with _ | m
  · cases v <;> exact ⟨_, rfl, rfl⟩
  · cases v <;> cases m <;> first | exact ⟨_, rfl, rfl⟩ | exact absent h

theorem bit (o : ReadOperand) : Statement (.bit o) := by
  rintro ⟨v, dc, bo, ws, lo, hi⟩ h
  rcases o with _ | m
  · cases v <;> first | exact ⟨_, rfl, rfl⟩ | exact absent h
  · cases v <;> cases m <;> first | exact ⟨_, rfl, rfl⟩ | exact absent h

theorem tsb (m : MemMode) : Statement (.tsb m) := by
  rintro ⟨v, dc, bo, ws, lo, hi⟩ h
  cases v <;> cases m <;> first | exact ⟨_, rfl, rfl⟩ | exact absent h

theorem trb (m : MemMode) : Statement (.trb m) := by
  rintro ⟨v, dc, bo, ws, lo, hi⟩ h
  cases v <;> cases m <;> first | exact ⟨_, rfl, rfl⟩ | exact absent h

theorem rmb0 (zp : Byte) : Statement (.rmb0 zp) := by
  rintro ⟨v, dc, bo, ws, lo, hi⟩ h
  cases v <;> cases bo <;> first | exact ⟨_, rfl, rfl⟩ | exact absent h

theorem rmb1 (zp : Byte) : Statement (.rmb1 zp) := by
  rintro ⟨v, dc, bo, ws, lo, hi⟩ h
  cases v <;> cases bo <;> first | exact ⟨_, rfl, rfl⟩ | exact absent h

theorem rmb2 (zp : Byte) : Statement (.rmb2 zp) := by
  rintro ⟨v, dc, bo, ws, lo, hi⟩ h
  cases v <;> cases bo <;> first | exact ⟨_, rfl, rfl⟩ | exact absent h

theorem rmb3 (zp : Byte) : Statement (.rmb3 zp) := by
  rintro ⟨v, dc, bo, ws, lo, hi⟩ h
  cases v <;> cases bo <;> first | exact ⟨_, rfl, rfl⟩ | exact absent h

theorem rmb4 (zp : Byte) : Statement (.rmb4 zp) := by
  rintro ⟨v, dc, bo, ws, lo, hi⟩ h
  cases v <;> cases bo <;> first | exact ⟨_, rfl, rfl⟩ | exact absent h

theorem rmb5 (zp : Byte) : Statement (.rmb5 zp) := by
  rintro ⟨v, dc, bo, ws, lo, hi⟩ h
  cases v <;> cases bo <;> first | exact ⟨_, rfl, rfl⟩ | exact absent h

theorem rmb6 (zp : Byte) : Statement (.rmb6 zp) := by
  rintro ⟨v, dc, bo, ws, lo, hi⟩ h
  cases v <;> cases bo <;> first | exact ⟨_, rfl, rfl⟩ | exact absent h

theorem rmb7 (zp : Byte) : Statement (.rmb7 zp) := by
  rintro ⟨v, dc, bo, ws, lo, hi⟩ h
  cases v <;> cases bo <;> first | exact ⟨_, rfl, rfl⟩ | exact absent h

theorem smb0 (zp : Byte) : Statement (.smb0 zp) := by
  rintro ⟨v, dc, bo, ws, lo, hi⟩ h
  cases v <;> cases bo <;> first | exact ⟨_, rfl, rfl⟩ | exact absent h

theorem smb1 (zp : Byte) : Statement (.smb1 zp) := by
  rintro ⟨v, dc, bo, ws, lo, hi⟩ h
  cases v <;> cases bo <;> first | exact ⟨_, rfl, rfl⟩ | exact absent h

theorem smb2 (zp : Byte) : Statement (.smb2 zp) := by
  rintro ⟨v, dc, bo, ws, lo, hi⟩ h
  cases v <;> cases bo <;> first | exact ⟨_, rfl, rfl⟩ | exact absent h

theorem smb3 (zp : Byte) : Statement (.smb3 zp) := by
  rintro ⟨v, dc, bo, ws, lo, hi⟩ h
  cases v <;> cases bo <;> first | exact ⟨_, rfl, rfl⟩ | exact absent h

theorem smb4 (zp : Byte) : Statement (.smb4 zp) := by
  rintro ⟨v, dc, bo, ws, lo, hi⟩ h
  cases v <;> cases bo <;> first | exact ⟨_, rfl, rfl⟩ | exact absent h

theorem smb5 (zp : Byte) : Statement (.smb5 zp) := by
  rintro ⟨v, dc, bo, ws, lo, hi⟩ h
  cases v <;> cases bo <;> first | exact ⟨_, rfl, rfl⟩ | exact absent h

theorem smb6 (zp : Byte) : Statement (.smb6 zp) := by
  rintro ⟨v, dc, bo, ws, lo, hi⟩ h
  cases v <;> cases bo <;> first | exact ⟨_, rfl, rfl⟩ | exact absent h

theorem smb7 (zp : Byte) : Statement (.smb7 zp) := by
  rintro ⟨v, dc, bo, ws, lo, hi⟩ h
  cases v <;> cases bo <;> first | exact ⟨_, rfl, rfl⟩ | exact absent h

theorem bpl (w : Byte) : Statement (.bpl w) := by
  rintro ⟨v, dc, bo, ws, lo, hi⟩ h
  cases v <;> exact ⟨_, rfl, rfl⟩

theorem bmi (w : Byte) : Statement (.bmi w) := by
  rintro ⟨v, dc, bo, ws, lo, hi⟩ h
  cases v <;> exact ⟨_, rfl, rfl⟩

theorem bvc (w : Byte) : Statement (.bvc w) := by
  rintro ⟨v, dc, bo, ws, lo, hi⟩ h
  cases v <;> exact ⟨_, rfl, rfl⟩

theorem bvs (w : Byte) : Statement (.bvs w) := by
  rintro ⟨v, dc, bo, ws, lo, hi⟩ h
  cases v <;> exact ⟨_, rfl, rfl⟩

theorem bcc (w : Byte) : Statement (.bcc w) := by
  rintro ⟨v, dc, bo, ws, lo, hi⟩ h
  cases v <;> exact ⟨_, rfl, rfl⟩

theorem bcs (w : Byte) : Statement (.bcs w) := by
  rintro ⟨v, dc, bo, ws, lo, hi⟩ h
  cases v <;> exact ⟨_, rfl, rfl⟩

theorem bne (w : Byte) : Statement (.bne w) := by
  rintro ⟨v, dc, bo, ws, lo, hi⟩ h
  cases v <;> exact ⟨_, rfl, rfl⟩

theorem beq (w : Byte) : Statement (.beq w) := by
  rintro ⟨v, dc, bo, ws, lo, hi⟩ h
  cases v <;> exact ⟨_, rfl, rfl⟩

theorem bra (w : Byte) : Statement (.bra w) := by
  rintro ⟨v, dc, bo, ws, lo, hi⟩ h
  cases v <;> first | exact ⟨_, rfl, rfl⟩ | exact absent h

theorem bbr0 (zp off : Byte) : Statement (.bbr0 zp off) := by
  rintro ⟨v, dc, bo, ws, lo, hi⟩ h
  cases v <;> cases bo <;> first | exact ⟨_, rfl, rfl⟩ | exact absent h

theorem bbr1 (zp off : Byte) : Statement (.bbr1 zp off) := by
  rintro ⟨v, dc, bo, ws, lo, hi⟩ h
  cases v <;> cases bo <;> first | exact ⟨_, rfl, rfl⟩ | exact absent h

theorem bbr2 (zp off : Byte) : Statement (.bbr2 zp off) := by
  rintro ⟨v, dc, bo, ws, lo, hi⟩ h
  cases v <;> cases bo <;> first | exact ⟨_, rfl, rfl⟩ | exact absent h

theorem bbr3 (zp off : Byte) : Statement (.bbr3 zp off) := by
  rintro ⟨v, dc, bo, ws, lo, hi⟩ h
  cases v <;> cases bo <;> first | exact ⟨_, rfl, rfl⟩ | exact absent h

theorem bbr4 (zp off : Byte) : Statement (.bbr4 zp off) := by
  rintro ⟨v, dc, bo, ws, lo, hi⟩ h
  cases v <;> cases bo <;> first | exact ⟨_, rfl, rfl⟩ | exact absent h

theorem bbr5 (zp off : Byte) : Statement (.bbr5 zp off) := by
  rintro ⟨v, dc, bo, ws, lo, hi⟩ h
  cases v <;> cases bo <;> first | exact ⟨_, rfl, rfl⟩ | exact absent h

theorem bbr6 (zp off : Byte) : Statement (.bbr6 zp off) := by
  rintro ⟨v, dc, bo, ws, lo, hi⟩ h
  cases v <;> cases bo <;> first | exact ⟨_, rfl, rfl⟩ | exact absent h

theorem bbr7 (zp off : Byte) : Statement (.bbr7 zp off) := by
  rintro ⟨v, dc, bo, ws, lo, hi⟩ h
  cases v <;> cases bo <;> first | exact ⟨_, rfl, rfl⟩ | exact absent h

theorem bbs0 (zp off : Byte) : Statement (.bbs0 zp off) := by
  rintro ⟨v, dc, bo, ws, lo, hi⟩ h
  cases v <;> cases bo <;> first | exact ⟨_, rfl, rfl⟩ | exact absent h

theorem bbs1 (zp off : Byte) : Statement (.bbs1 zp off) := by
  rintro ⟨v, dc, bo, ws, lo, hi⟩ h
  cases v <;> cases bo <;> first | exact ⟨_, rfl, rfl⟩ | exact absent h

theorem bbs2 (zp off : Byte) : Statement (.bbs2 zp off) := by
  rintro ⟨v, dc, bo, ws, lo, hi⟩ h
  cases v <;> cases bo <;> first | exact ⟨_, rfl, rfl⟩ | exact absent h

theorem bbs3 (zp off : Byte) : Statement (.bbs3 zp off) := by
  rintro ⟨v, dc, bo, ws, lo, hi⟩ h
  cases v <;> cases bo <;> first | exact ⟨_, rfl, rfl⟩ | exact absent h

theorem bbs4 (zp off : Byte) : Statement (.bbs4 zp off) := by
  rintro ⟨v, dc, bo, ws, lo, hi⟩ h
  cases v <;> cases bo <;> first | exact ⟨_, rfl, rfl⟩ | exact absent h

theorem bbs5 (zp off : Byte) : Statement (.bbs5 zp off) := by
  rintro ⟨v, dc, bo, ws, lo, hi⟩ h
  cases v <;> cases bo <;> first | exact ⟨_, rfl, rfl⟩ | exact absent h

theorem bbs6 (zp off : Byte) : Statement (.bbs6 zp off) := by
  rintro ⟨v, dc, bo, ws, lo, hi⟩ h
  cases v <;> cases bo <;> first | exact ⟨_, rfl, rfl⟩ | exact absent h

theorem bbs7 (zp off : Byte) : Statement (.bbs7 zp off) := by
  rintro ⟨v, dc, bo, ws, lo, hi⟩ h
  cases v <;> cases bo <;> first | exact ⟨_, rfl, rfl⟩ | exact absent h

theorem jmp (m : MemMode) : Statement (.jmp m) := by
  rintro ⟨v, dc, bo, ws, lo, hi⟩ h
  cases v <;> cases m <;> first | exact ⟨_, rfl, rfl⟩ | exact absent h

theorem jsr (w : Addr) : Statement (.jsr w) := by
  rintro ⟨v, dc, bo, ws, lo, hi⟩ h
  cases v <;> exact ⟨_, rfl, rfl⟩

theorem rts : Statement .rts := by
  rintro ⟨v, dc, bo, ws, lo, hi⟩ h
  cases v <;> exact ⟨_, rfl, rfl⟩

theorem pha : Statement .pha := by
  rintro ⟨v, dc, bo, ws, lo, hi⟩ h
  cases v <;> exact ⟨_, rfl, rfl⟩

theorem php : Statement .php := by
  rintro ⟨v, dc, bo, ws, lo, hi⟩ h
  cases v <;> exact ⟨_, rfl, rfl⟩

theorem pla : Statement .pla := by
  rintro ⟨v, dc, bo, ws, lo, hi⟩ h
  cases v <;> exact ⟨_, rfl, rfl⟩

theorem plp : Statement .plp := by
  rintro ⟨v, dc, bo, ws, lo, hi⟩ h
  cases v <;> exact ⟨_, rfl, rfl⟩

theorem phx : Statement .phx := by
  rintro ⟨v, dc, bo, ws, lo, hi⟩ h
  cases v <;> exact ⟨_, rfl, rfl⟩

theorem phy : Statement .phy := by
  rintro ⟨v, dc, bo, ws, lo, hi⟩ h
  cases v <;> exact ⟨_, rfl, rfl⟩

theorem plx : Statement .plx := by
  rintro ⟨v, dc, bo, ws, lo, hi⟩ h
  cases v <;> exact ⟨_, rfl, rfl⟩

theorem ply : Statement .ply := by
  rintro ⟨v, dc, bo, ws, lo, hi⟩ h
  cases v <;> exact ⟨_, rfl, rfl⟩

theorem clc : Statement .clc := by
  rintro ⟨v, dc, bo, ws, lo, hi⟩ h
  cases v <;> exact ⟨_, rfl, rfl⟩

theorem sec : Statement .sec := by
  rintro ⟨v, dc, bo, ws, lo, hi⟩ h
  cases v <;> exact ⟨_, rfl, rfl⟩

theorem cli : Statement .cli := by
  rintro ⟨v, dc, bo, ws, lo, hi⟩ h
  cases v <;> exact ⟨_, rfl, rfl⟩

theorem sei : Statement .sei := by
  rintro ⟨v, dc, bo, ws, lo, hi⟩ h
  cases v <;> exact ⟨_, rfl, rfl⟩

theorem clv : Statement .clv := by
  rintro ⟨v, dc, bo, ws, lo, hi⟩ h
  cases v <;> exact ⟨_, rfl, rfl⟩

theorem cld : Statement .cld := by
  rintro ⟨v, dc, bo, ws, lo, hi⟩ h
  cases v <;> exact ⟨_, rfl, rfl⟩

theorem sed : Statement .sed := by
  rintro ⟨v, dc, bo, ws, lo, hi⟩ h
  cases v <;> exact ⟨_, rfl, rfl⟩

theorem nop : Statement .nop := by
  rintro ⟨v, dc, bo, ws, lo, hi⟩ h
  cases v <;> exact ⟨_, rfl, rfl⟩

theorem brk (w : Byte) : Statement (.brk w) := by
  rintro ⟨v, dc, bo, ws, lo, hi⟩ h
  cases v <;> exact ⟨_, rfl, rfl⟩

theorem rti : Statement .rti := by
  rintro ⟨v, dc, bo, ws, lo, hi⟩ h
  cases v <;> exact ⟨_, rfl, rfl⟩

theorem wai : Statement .wai := by
  rintro ⟨v, dc, bo, ws, lo, hi⟩ h
  cases v <;> cases ws <;> exact ⟨_, rfl, rfl⟩

theorem stp : Statement .stp := by
  rintro ⟨v, dc, bo, ws, lo, hi⟩ h
  cases v <;> cases ws <;> exact ⟨_, rfl, rfl⟩

theorem illegal (op : Byte) : Statement (.illegal op) := by
  rintro ⟨v, dc, bo, ws, lo, hi⟩ h
  refine ⟨op, rfl, ?_⟩
  cases v with
  | nmos =>
    have all : ∀ op ∈ nmosIllegal, (descOf ⟨.nmos, dc, bo, ws, lo, hi⟩ op).length = 1 := by
      simp only [nmosIllegal, List.cons_append, List.nil_append, List.forall_mem_cons]
      repeat' apply And.intro
      all_goals first | rfl | simp
    exact all op (by simpa [Instr.wellFormed, Config.isCmos] using h)
  | cmos => exact absent h

set_option maxRecDepth 20000 in
/-- The one-byte undefined opcodes of CMOS (R121). -/
theorem nopOne (dc bo ws : Bool) (lo hi : Addr) (op : Byte)
    (h : Config.isNop1 ⟨.cmos, dc, bo, ws, lo, hi⟩ op = true) :
    (descOf ⟨.cmos, dc, bo, ws, lo, hi⟩ op).length = 1 := by
  have all : ∀ (bo ws : Bool) (n : Fin 256), Config.isNop1 ⟨.cmos, true, bo, ws, 0#16, 0#16⟩ (BitVec.ofFin n) = true →
      (descOf ⟨.cmos, true, bo, ws, 0#16, 0#16⟩ (BitVec.ofFin n)).length = 1 := by
    decide
  exact all bo ws op.toFin h

theorem nopStar (op : Byte) (shape : NopShape) : Statement (.nopStar op shape) := by
  rintro ⟨v, dc, bo, ws, lo, hi⟩ h
  refine ⟨op, rfl, ?_⟩
  cases v with
  | nmos => cases shape <;> exact absent h
  | cmos =>
    cases shape with
    | one => exact nopOne dc bo ws lo hi op (by simpa [Instr.wellFormed, Config.isCmos] using h)
    | two b1 =>
      have all : ∀ op ∈ cmosNop2, (descOf ⟨.cmos, dc, bo, ws, lo, hi⟩ op).length = 2 := by
        simp only [cmosNop2, List.forall_mem_cons]
        repeat' apply And.intro
        all_goals first | rfl | simp
      exact all op (by simpa [Instr.wellFormed, Config.isCmos] using h)
    | three b1 b2 =>
      have all : ∀ op ∈ cmosNop3, (descOf ⟨.cmos, dc, bo, ws, lo, hi⟩ op).length = 3 := by
        simp only [cmosNop3, List.forall_mem_cons]
        repeat' apply And.intro
        all_goals first | rfl | simp
      exact all op (by simpa [Instr.wellFormed, Config.isCmos] using h)

end Sys2Proof.Laws.Encodes
end

