-- ==== Sys2Proof/Tests/Slice0.lean ====
section
/-! SUPPORT. The model's own tests: ill-formed terms, words written out from the encoding tables, one-step vectors of
95_test_vectors.md, and the witnesses of the obligations' hypotheses. -/

namespace Sys2Proof.Tests
open Sys2Proof Sys2Proof.Machine

/-! ## Helpers -/

/-- An NMOS core, and CMOS cores without and with the optional instructions. -/
abbrev nmos : Config := Claims.plain .nmos
abbrev cmos : Config := Claims.plain .cmos
abbrev full : Config := Claims.full

/-- The processor state of 95_test_vectors.md section 0. -/
def start : CpuState :=
  { a := 0, x := 0, y := 0, sp := 0xFF, pc := 0x0200, n := false, v := false, b := false, d := false, i := false,
    z := false, c := false, ir := 0, cycles := 0, nmiPending := false, run := .running }

/-- Bytes at rising addresses. -/
def cellsAt : Nat → List Byte → List Host.Cell
  | _, [] => []
  | a, v :: vs => (a, v) :: cellsAt (a + 1) vs

/-- One RAM over the address space, with code at PC and other bytes. -/
def machine (cfg : Config) (code : List Byte) (cells : List Host.Cell) (cpu : CpuState) : State :=
  { cfg := cfg, cpu := cpu, irqLine := false,
    bus := { Bus.standard with mem := Memory.writeAll (Memory.writeAll [] (cellsAt cpu.pc.toNat code)) cells } }

/-- What a test looks at. -/
structure Seen where
  a : Byte := 0
  x : Byte := 0
  y : Byte := 0
  sp : Byte := 0xFF
  p : Byte := 0x20
  pc : Addr
  cycles : Nat
  run : RunState := .running
  bytes : List Byte := []
deriving DecidableEq, Repr

/-- One step, and the bytes at some addresses after it. -/
def seen (s : State) (look : List Addr) : Option Seen :=
  match step s with
  | .next t =>
    some { a := t.cpu.a, x := t.cpu.x, y := t.cpu.y, sp := t.cpu.sp, p := t.cpu.packP false, pc := t.cpu.pc,
           cycles := t.cpu.cycles, run := t.cpu.run, bytes := look.filterMap t.bus.peek }
  | .fault _ | .refused _ => none

/-- Words that decode to their instructions, and instructions that encode to their words. -/
def allDecode (cfg : Config) (rows : List (List Byte × Instr)) : Bool :=
  rows.all fun row => decide (decode cfg row.1 = .ok row.2 []) && decide (encode row.2 = some row.1)

/-! ## Ill-formed terms -/

theorem test_wellFormed_modes_nmos :
    ([.lda (.mem (.zpi 0x10)), .lda (.mem (.zpy 0x10)), .ldx (.mem (.zpx 0x10)), .ldy (.mem (.zpy 0x10)),
      .cpx (.mem (.zpx 0x10)), .cpy (.mem (.absx 0x10)), .bit (.imm 0x10), .sta (.ind 0x10), .stx (.zpx 0x10),
      .sty (.zpy 0x10), .stz (.zp 0x10), .asl (.mem (.absy 0x10)), .inc .acc, .dec (.mem (.izx 0x10)),
      .tsb (.zp 0x10), .jmp (.zp 0x10), .jmp (.iax 0x10)] : List Instr).all
      (fun i => !i.wellFormed nmos) = true := by decide

theorem test_wellFormed_modes_cmos :
    ([.lda (.mem (.ind 0x10)), .sta (.iax 0x10), .stz (.absy 0x10), .tsb (.zpx 0x10), .trb (.absx 0x10),
      .jmp (.izx 0x10), .ror (.mem (.zpi 0x10)), .bit (.mem (.absy 0x10))] : List Instr).all
      (fun i => !i.wellFormed cmos) = true := by decide

theorem test_wellFormed_cmos_only :
    ([.bra 0x10, .phx, .phy, .plx, .ply, .rmb0 0x10, .bbs7 0x10 0x10, .wai, .stp, .nopStar 0x02 (.two 0x10),
      .nopStar 0x03 .one, .nopStar 0x5C (.three 0x10 0x10)] : List Instr).all
      (fun i => !i.wellFormed nmos) = true := by decide

theorem test_wellFormed_parameters :
    ([.rmb0 0x10, .smb7 0x10, .bbr0 0x10 0x10, .bbs7 0x10 0x10, .wai, .stp] : List Instr).all
      (fun i => !i.wellFormed cmos && i.wellFormed full) = true := by decide

theorem test_wellFormed_no_operations :
    ([.nopStar 0x07 .one, .nopStar 0xCB .one, .nopStar 0x02 .one, .nopStar 0xEA .one, .nopStar 0x5C (.two 0x10),
      .nopStar 0x02 (.three 0x10 0x10)] : List Instr).all
      (fun i => !i.wellFormed full) = true := by decide

theorem test_wellFormed_illegal :
    (Instr.illegal 0xA9).wellFormed nmos = false ∧ (Instr.illegal 0x02).wellFormed cmos = false := by decide

/-! ## Words written out from R117, R118, R122 and R123 -/

theorem test_decode_loads_and_stores_nmos_1 : allDecode nmos
    [([0xA9, 0x9C], .lda (.imm 0x9C)), ([0xA5, 0x8A], .lda (.mem (.zp 0x8A))),
      ([0xB5, 0x8A], .lda (.mem (.zpx 0x8A))), ([0xAD, 0x34, 0x92], .lda (.mem (.abs 0x9234))),
      ([0xBD, 0x34, 0x92], .lda (.mem (.absx 0x9234))), ([0xB9, 0x34, 0x92], .lda (.mem (.absy 0x9234))),
      ([0xA1, 0x8A], .lda (.mem (.izx 0x8A))), ([0xB1, 0x8A], .lda (.mem (.izy 0x8A))),
      ([0xA2, 0x9C], .ldx (.imm 0x9C)), ([0xA6, 0x8A], .ldx (.mem (.zp 0x8A))),
      ([0xB6, 0x8A], .ldx (.mem (.zpy 0x8A))), ([0xAE, 0x34, 0x92], .ldx (.mem (.abs 0x9234)))] = true := by decide

theorem test_decode_loads_and_stores_nmos_2 : allDecode nmos
    [([0xBE, 0x34, 0x92], .ldx (.mem (.absy 0x9234))), ([0xA0, 0x9C], .ldy (.imm 0x9C)),
      ([0xA4, 0x8A], .ldy (.mem (.zp 0x8A))), ([0xB4, 0x8A], .ldy (.mem (.zpx 0x8A))),
      ([0xAC, 0x34, 0x92], .ldy (.mem (.abs 0x9234))), ([0xBC, 0x34, 0x92], .ldy (.mem (.absx 0x9234))),
      ([0x85, 0x8A], .sta (.zp 0x8A)), ([0x95, 0x8A], .sta (.zpx 0x8A)),
      ([0x8D, 0x34, 0x92], .sta (.abs 0x9234)), ([0x9D, 0x34, 0x92], .sta (.absx 0x9234)),
      ([0x99, 0x34, 0x92], .sta (.absy 0x9234)), ([0x81, 0x8A], .sta (.izx 0x8A))] = true := by decide

theorem test_decode_loads_and_stores_nmos_3 : allDecode nmos
    [([0x91, 0x8A], .sta (.izy 0x8A)), ([0x86, 0x8A], .stx (.zp 0x8A)), ([0x96, 0x8A], .stx (.zpy 0x8A)),
      ([0x8E, 0x34, 0x92], .stx (.abs 0x9234)), ([0x84, 0x8A], .sty (.zp 0x8A)),
      ([0x94, 0x8A], .sty (.zpx 0x8A)), ([0x8C, 0x34, 0x92], .sty (.abs 0x9234))] = true := by decide

theorem test_decode_loads_and_stores_cmos : allDecode cmos
    [([0xB2, 0x8A], .lda (.mem (.zpi 0x8A))), ([0x92, 0x8A], .sta (.zpi 0x8A)),
      ([0x64, 0x8A], .stz (.zp 0x8A)), ([0x74, 0x8A], .stz (.zpx 0x8A)),
      ([0x9C, 0x34, 0x92], .stz (.abs 0x9234)), ([0x9E, 0x34, 0x92], .stz (.absx 0x9234))] = true := by decide

theorem test_decode_transfers_nmos : allDecode nmos
    [([0xAA], .tax), ([0xA8], .tay), ([0x8A], .txa), ([0x98], .tya), ([0xBA], .tsx), ([0x9A], .txs)] = true := by decide

theorem test_decode_arithmetic_nmos_1 : allDecode nmos
    [([0x69, 0x9C], .adc (.imm 0x9C)), ([0x65, 0x8A], .adc (.mem (.zp 0x8A))),
      ([0x75, 0x8A], .adc (.mem (.zpx 0x8A))), ([0x6D, 0x34, 0x92], .adc (.mem (.abs 0x9234))),
      ([0x7D, 0x34, 0x92], .adc (.mem (.absx 0x9234))), ([0x79, 0x34, 0x92], .adc (.mem (.absy 0x9234))),
      ([0x61, 0x8A], .adc (.mem (.izx 0x8A))), ([0x71, 0x8A], .adc (.mem (.izy 0x8A))),
      ([0xE9, 0x9C], .sbc (.imm 0x9C)), ([0xE5, 0x8A], .sbc (.mem (.zp 0x8A))),
      ([0xF5, 0x8A], .sbc (.mem (.zpx 0x8A))), ([0xED, 0x34, 0x92], .sbc (.mem (.abs 0x9234)))] = true := by decide

theorem test_decode_arithmetic_nmos_2 : allDecode nmos
    [([0xFD, 0x34, 0x92], .sbc (.mem (.absx 0x9234))), ([0xF9, 0x34, 0x92], .sbc (.mem (.absy 0x9234))),
      ([0xE1, 0x8A], .sbc (.mem (.izx 0x8A))), ([0xF1, 0x8A], .sbc (.mem (.izy 0x8A)))] = true := by decide

theorem test_decode_arithmetic_cmos : allDecode cmos
    [([0x72, 0x8A], .adc (.mem (.zpi 0x8A))), ([0xF2, 0x8A], .sbc (.mem (.zpi 0x8A)))] = true := by decide

theorem test_decode_counts_nmos : allDecode nmos
    [([0xE6, 0x8A], .inc (.mem (.zp 0x8A))), ([0xF6, 0x8A], .inc (.mem (.zpx 0x8A))),
      ([0xEE, 0x34, 0x92], .inc (.mem (.abs 0x9234))), ([0xFE, 0x34, 0x92], .inc (.mem (.absx 0x9234))),
      ([0xC6, 0x8A], .dec (.mem (.zp 0x8A))), ([0xD6, 0x8A], .dec (.mem (.zpx 0x8A))),
      ([0xCE, 0x34, 0x92], .dec (.mem (.abs 0x9234))), ([0xDE, 0x34, 0x92], .dec (.mem (.absx 0x9234))),
      ([0xE8], .inx), ([0xC8], .iny), ([0xCA], .dex), ([0x88], .dey)] = true := by decide

theorem test_decode_counts_cmos : allDecode cmos
    [([0x1A], .inc .acc), ([0x3A], .dec .acc)] = true := by decide

theorem test_decode_shifts_nmos_1 : allDecode nmos
    [([0x0A], .asl .acc), ([0x06, 0x8A], .asl (.mem (.zp 0x8A))), ([0x16, 0x8A], .asl (.mem (.zpx 0x8A))),
      ([0x0E, 0x34, 0x92], .asl (.mem (.abs 0x9234))), ([0x1E, 0x34, 0x92], .asl (.mem (.absx 0x9234))),
      ([0x4A], .lsr .acc), ([0x46, 0x8A], .lsr (.mem (.zp 0x8A))), ([0x56, 0x8A], .lsr (.mem (.zpx 0x8A))),
      ([0x4E, 0x34, 0x92], .lsr (.mem (.abs 0x9234))), ([0x5E, 0x34, 0x92], .lsr (.mem (.absx 0x9234))),
      ([0x2A], .rol .acc), ([0x26, 0x8A], .rol (.mem (.zp 0x8A)))] = true := by decide

theorem test_decode_shifts_nmos_2 : allDecode nmos
    [([0x36, 0x8A], .rol (.mem (.zpx 0x8A))), ([0x2E, 0x34, 0x92], .rol (.mem (.abs 0x9234))),
      ([0x3E, 0x34, 0x92], .rol (.mem (.absx 0x9234))), ([0x6A], .ror .acc),
      ([0x66, 0x8A], .ror (.mem (.zp 0x8A))), ([0x76, 0x8A], .ror (.mem (.zpx 0x8A))),
      ([0x6E, 0x34, 0x92], .ror (.mem (.abs 0x9234))), ([0x7E, 0x34, 0x92], .ror (.mem (.absx 0x9234)))] = true := by decide

theorem test_decode_logic_nmos_1 : allDecode nmos
    [([0x29, 0x9C], .and (.imm 0x9C)), ([0x25, 0x8A], .and (.mem (.zp 0x8A))),
      ([0x35, 0x8A], .and (.mem (.zpx 0x8A))), ([0x2D, 0x34, 0x92], .and (.mem (.abs 0x9234))),
      ([0x3D, 0x34, 0x92], .and (.mem (.absx 0x9234))), ([0x39, 0x34, 0x92], .and (.mem (.absy 0x9234))),
      ([0x21, 0x8A], .and (.mem (.izx 0x8A))), ([0x31, 0x8A], .and (.mem (.izy 0x8A))),
      ([0x09, 0x9C], .ora (.imm 0x9C)), ([0x05, 0x8A], .ora (.mem (.zp 0x8A))),
      ([0x15, 0x8A], .ora (.mem (.zpx 0x8A))), ([0x0D, 0x34, 0x92], .ora (.mem (.abs 0x9234)))] = true := by decide

theorem test_decode_logic_nmos_2 : allDecode nmos
    [([0x1D, 0x34, 0x92], .ora (.mem (.absx 0x9234))), ([0x19, 0x34, 0x92], .ora (.mem (.absy 0x9234))),
      ([0x01, 0x8A], .ora (.mem (.izx 0x8A))), ([0x11, 0x8A], .ora (.mem (.izy 0x8A))),
      ([0x49, 0x9C], .eor (.imm 0x9C)), ([0x45, 0x8A], .eor (.mem (.zp 0x8A))),
      ([0x55, 0x8A], .eor (.mem (.zpx 0x8A))), ([0x4D, 0x34, 0x92], .eor (.mem (.abs 0x9234))),
      ([0x5D, 0x34, 0x92], .eor (.mem (.absx 0x9234))), ([0x59, 0x34, 0x92], .eor (.mem (.absy 0x9234))),
      ([0x41, 0x8A], .eor (.mem (.izx 0x8A))), ([0x51, 0x8A], .eor (.mem (.izy 0x8A)))] = true := by decide

theorem test_decode_logic_cmos : allDecode cmos
    [([0x32, 0x8A], .and (.mem (.zpi 0x8A))), ([0x12, 0x8A], .ora (.mem (.zpi 0x8A))),
      ([0x52, 0x8A], .eor (.mem (.zpi 0x8A)))] = true := by decide

theorem test_decode_compares_nmos_1 : allDecode nmos
    [([0xC9, 0x9C], .cmp (.imm 0x9C)), ([0xC5, 0x8A], .cmp (.mem (.zp 0x8A))),
      ([0xD5, 0x8A], .cmp (.mem (.zpx 0x8A))), ([0xCD, 0x34, 0x92], .cmp (.mem (.abs 0x9234))),
      ([0xDD, 0x34, 0x92], .cmp (.mem (.absx 0x9234))), ([0xD9, 0x34, 0x92], .cmp (.mem (.absy 0x9234))),
      ([0xC1, 0x8A], .cmp (.mem (.izx 0x8A))), ([0xD1, 0x8A], .cmp (.mem (.izy 0x8A))),
      ([0xE0, 0x9C], .cpx (.imm 0x9C)), ([0xE4, 0x8A], .cpx (.mem (.zp 0x8A))),
      ([0xEC, 0x34, 0x92], .cpx (.mem (.abs 0x9234))), ([0xC0, 0x9C], .cpy (.imm 0x9C))] = true := by decide

theorem test_decode_compares_nmos_2 : allDecode nmos
    [([0xC4, 0x8A], .cpy (.mem (.zp 0x8A))), ([0xCC, 0x34, 0x92], .cpy (.mem (.abs 0x9234))),
      ([0x24, 0x8A], .bit (.mem (.zp 0x8A))), ([0x2C, 0x34, 0x92], .bit (.mem (.abs 0x9234)))] = true := by decide

theorem test_decode_compares_cmos : allDecode cmos
    [([0xD2, 0x8A], .cmp (.mem (.zpi 0x8A))), ([0x89, 0x9C], .bit (.imm 0x9C)),
      ([0x34, 0x8A], .bit (.mem (.zpx 0x8A))), ([0x3C, 0x34, 0x92], .bit (.mem (.absx 0x9234))),
      ([0x04, 0x8A], .tsb (.zp 0x8A)), ([0x0C, 0x34, 0x92], .tsb (.abs 0x9234)),
      ([0x14, 0x8A], .trb (.zp 0x8A)), ([0x1C, 0x34, 0x92], .trb (.abs 0x9234))] = true := by decide

theorem test_decode_control_nmos : allDecode nmos
    [([0x10, 0xFC], .bpl 0xFC), ([0x30, 0xFC], .bmi 0xFC), ([0x50, 0xFC], .bvc 0xFC),
      ([0x70, 0xFC], .bvs 0xFC), ([0x90, 0xFC], .bcc 0xFC), ([0xB0, 0xFC], .bcs 0xFC),
      ([0xD0, 0xFC], .bne 0xFC), ([0xF0, 0xFC], .beq 0xFC), ([0x4C, 0x34, 0x92], .jmp (.abs 0x9234)),
      ([0x6C, 0x34, 0x92], .jmp (.ind 0x9234)), ([0x20, 0x34, 0x92], .jsr 0x9234), ([0x60], .rts)] = true := by decide

theorem test_decode_control_cmos : allDecode cmos
    [([0x80, 0xFC], .bra 0xFC), ([0x7C, 0x34, 0x92], .jmp (.iax 0x9234))] = true := by decide

theorem test_decode_system_nmos_1 : allDecode nmos
    [([0x48], .pha), ([0x08], .php), ([0x68], .pla), ([0x28], .plp), ([0x18], .clc), ([0x38], .sec),
      ([0x58], .cli), ([0x78], .sei), ([0xB8], .clv), ([0xD8], .cld), ([0xF8], .sed), ([0xEA], .nop)] = true := by decide

theorem test_decode_system_nmos_2 : allDecode nmos
    [([0x40], .rti), ([0x00, 0xEA], .brk 0xEA), ([0x02], .illegal 0x02), ([0xFF], .illegal 0xFF)] = true := by decide

theorem test_decode_system_cmos : allDecode cmos
    [([0xDA], .phx), ([0x5A], .phy), ([0xFA], .plx), ([0x7A], .ply),
      ([0x82, 0x9C], .nopStar 0x82 (.two 0x9C)), ([0x5C, 0x34, 0x92], .nopStar 0x5C (.three 0x34 0x92)),
      ([0xCB], .nopStar 0xCB .one), ([0xFF], .nopStar 0xFF .one)] = true := by decide

theorem test_decode_system_full : allDecode full
    [([0xCB], .wai), ([0xDB], .stp)] = true := by decide

theorem test_decode_bits_full_1 : allDecode full
    [([0x07, 0x8A], .rmb0 0x8A), ([0x87, 0x8A], .smb0 0x8A), ([0x0F, 0x8A, 0xFC], .bbr0 0x8A 0xFC),
      ([0x8F, 0x8A, 0xFC], .bbs0 0x8A 0xFC), ([0x17, 0x8A], .rmb1 0x8A), ([0x97, 0x8A], .smb1 0x8A),
      ([0x1F, 0x8A, 0xFC], .bbr1 0x8A 0xFC), ([0x9F, 0x8A, 0xFC], .bbs1 0x8A 0xFC),
      ([0x27, 0x8A], .rmb2 0x8A), ([0xA7, 0x8A], .smb2 0x8A), ([0x2F, 0x8A, 0xFC], .bbr2 0x8A 0xFC),
      ([0xAF, 0x8A, 0xFC], .bbs2 0x8A 0xFC)] = true := by decide

theorem test_decode_bits_full_2 : allDecode full
    [([0x37, 0x8A], .rmb3 0x8A), ([0xB7, 0x8A], .smb3 0x8A), ([0x3F, 0x8A, 0xFC], .bbr3 0x8A 0xFC),
      ([0xBF, 0x8A, 0xFC], .bbs3 0x8A 0xFC), ([0x47, 0x8A], .rmb4 0x8A), ([0xC7, 0x8A], .smb4 0x8A),
      ([0x4F, 0x8A, 0xFC], .bbr4 0x8A 0xFC), ([0xCF, 0x8A, 0xFC], .bbs4 0x8A 0xFC),
      ([0x57, 0x8A], .rmb5 0x8A), ([0xD7, 0x8A], .smb5 0x8A), ([0x5F, 0x8A, 0xFC], .bbr5 0x8A 0xFC),
      ([0xDF, 0x8A, 0xFC], .bbs5 0x8A 0xFC)] = true := by decide

theorem test_decode_bits_full_3 : allDecode full
    [([0x67, 0x8A], .rmb6 0x8A), ([0xE7, 0x8A], .smb6 0x8A), ([0x6F, 0x8A, 0xFC], .bbr6 0x8A 0xFC),
      ([0xEF, 0x8A, 0xFC], .bbs6 0x8A 0xFC), ([0x77, 0x8A], .rmb7 0x8A), ([0xF7, 0x8A], .smb7 0x8A),
      ([0x7F, 0x8A, 0xFC], .bbr7 0x8A 0xFC), ([0xFF, 0x8A, 0xFC], .bbs7 0x8A 0xFC)] = true := by decide

theorem test_decode_truncated :
    decode nmos [] = .rejected .noOpcode ∧ decode nmos [0xA9] = .rejected (.truncated 0xA9) ∧
      decode full [0x0F, 0x10] = .rejected (.truncated 0x0F) := by decide

theorem test_decodeTableWord :
    decodeTableWord 24 0x1234AD = some (.lda (.mem (.abs 0x1234))) ∧ decodeTableWord 8 0xEA = some .nop ∧
      decodeTableWord 8 0xAD = some (.lda (.mem (.abs 0x0000))) := by decide

theorem test_withFetchWord :
    seen (State.reset.withFetchWord 16 0x80A9) [0x0000, 0x0001, 0x0002] =
      some { a := 0x80, sp := 0x00, p := 0xA4, pc := 0x0002, cycles := 2, bytes := [0xA9, 0x80, 0x00] } := by decide

/-! ## One step of each instruction (95_test_vectors.md) -/

/-- K16, K17 for every bit (R247, R248). -/
theorem test_rmb_smb_every_bit : ∀ b : Fin 8,
    seen (machine full [BitVec.ofNat 8 (0x07 + 0x10 * b.val), 0x10] [(0x10, 0xFF)] start) [0x10] =
      some { pc := 0x0202, cycles := 5, bytes := [BitVec.ofNat 8 (0xFF - 2 ^ b.val)] } ∧
    seen (machine full [BitVec.ofNat 8 (0x87 + 0x10 * b.val), 0x10] [] start) [0x10] =
      some { pc := 0x0202, cycles := 5, bytes := [BitVec.ofNat 8 (2 ^ b.val)] } := by decide

/-- B15, B16 for every bit (R271, R272). -/
theorem test_bbr_bbs_every_bit : ∀ b : Fin 8,
    seen (machine full [BitVec.ofNat 8 (0x0F + 0x10 * b.val), 0x10, 0x05]
      [(0x10, BitVec.ofNat 8 (0xFF - 2 ^ b.val))] start) [] = some { pc := 0x0208, cycles := 6 } ∧
    seen (machine full [BitVec.ofNat 8 (0x8F + 0x10 * b.val), 0x10, 0x05]
      [(0x10, BitVec.ofNat 8 (0xFF - 2 ^ b.val))] start) [] = some { pc := 0x0203, cycles := 5 } := by decide

/-- M2. -/
theorem test_lda_zpx_wraps :
    seen (machine nmos [0xB5, 0xF0] [(0x0010, 0x55)] { start with x := 0x20 }) [] =
      some { a := 0x55, x := 0x20, pc := 0x0202, cycles := 4 } := by decide

/-- M8. -/
theorem test_lda_izy_crosses :
    seen (machine nmos [0xB1, 0xFF] [(0x00FF, 0xF8), (0x0000, 0x12), (0x1308, 0xAB)] { start with y := 0x10 }) [] =
      some { a := 0xAB, y := 0x10, p := 0xA0, pc := 0x0202, cycles := 6 } := by decide

/-- M3. -/
theorem test_ldx_zpy_wraps :
    seen (machine nmos [0xB6, 0x10] [] { start with y := 0xF5 }) [] =
      some { x := 0x00, y := 0xF5, p := 0x22, pc := 0x0202, cycles := 4 } := by decide

/-- L4. -/
theorem test_ldx_imm_negative :
    seen (machine nmos [0xA2, 0xFF] [] start) [] =
      some { x := 0xFF, p := 0xA0, pc := 0x0202, cycles := 2 } := by decide

/-- L3. -/
theorem test_ldy_imm :
    seen (machine nmos [0xA0, 0x7F] [] start) [] =
      some { y := 0x7F, pc := 0x0202, cycles := 2 } := by decide

/-- M14. -/
theorem test_sta_izy_no_penalty :
    seen (machine nmos [0x91, 0x80] [(0x0080, 0xFF), (0x0081, 0x20)] { start with a := 0x11, y := 0x01 }) [0x2100] =
      some { a := 0x11, y := 0x01, pc := 0x0202, cycles := 6, bytes := [0x11] } := by decide

/-- L5. -/
theorem test_sta_abs_keeps_flags :
    seen (machine nmos [0x8D, 0x00, 0x20] [] { start with a := 0x5A, n := true, z := true, c := true }) [0x2000] =
      some { a := 0x5A, p := 0xA3, pc := 0x0203, cycles := 4, bytes := [0x5A] } := by decide

/-- L6. -/
theorem test_stx_zpy_wraps :
    seen (machine nmos [0x96, 0x80] [] { start with x := 0x33, y := 0x90 }) [0x0010] =
      some { x := 0x33, y := 0x90, pc := 0x0202, cycles := 4, bytes := [0x33] } := by decide

/-- L7. -/
theorem test_sty_zpx :
    seen (machine nmos [0x94, 0x80] [] { start with y := 0x44, x := 0x7F }) [0x00FF] =
      some { x := 0x7F, y := 0x44, pc := 0x0202, cycles := 4, bytes := [0x44] } := by decide

/-- L9. -/
theorem test_stz_abs :
    seen (machine cmos [0x9C, 0x00, 0x20] [(0x2000, 0xEE)] start) [0x2000] =
      some { pc := 0x0203, cycles := 4, bytes := [0x00] } := by decide

/-- L8. -/
theorem test_stz_zpx :
    seen (machine cmos [0x74, 0x20] [(0x0021, 0xEE)] { start with x := 0x01 }) [0x0021] =
      some { x := 0x01, pc := 0x0202, cycles := 4, bytes := [0x00] } := by decide

/-- T1. -/
theorem test_tax_zero :
    seen (machine nmos [0xAA] [] { start with x := 0x05 }) [] =
      some { x := 0x00, p := 0x22, pc := 0x0201, cycles := 2 } := by decide

/-- T2. -/
theorem test_tay_negative :
    seen (machine nmos [0xA8] [] { start with a := 0x80 }) [] =
      some { a := 0x80, y := 0x80, p := 0xA0, pc := 0x0201, cycles := 2 } := by decide

/-- T3. -/
theorem test_txa_clears_n :
    seen (machine nmos [0x8A] [] { start with x := 0x01, a := 0xFF, n := true }) [] =
      some { a := 0x01, x := 0x01, pc := 0x0201, cycles := 2 } := by decide

/-- T4. -/
theorem test_tya_zero :
    seen (machine nmos [0x98] [] { start with a := 0x01 }) [] =
      some { a := 0x00, p := 0x22, pc := 0x0201, cycles := 2 } := by decide

/-- T5. -/
theorem test_tsx_negative :
    seen (machine nmos [0xBA] [] { start with sp := 0xF0 }) [] =
      some { x := 0xF0, sp := 0xF0, p := 0xA0, pc := 0x0201, cycles := 2 } := by decide

/-- T6. -/
theorem test_txs_keeps_flags :
    seen (machine nmos [0x9A] [] { start with n := true }) [] =
      some { sp := 0x00, p := 0xA0, pc := 0x0201, cycles := 2 } := by decide

/-- A1 and S4. -/
theorem test_adc_overflow :
    seen (machine nmos [0x69, 0x01] [] { start with a := 0x7F }) [] =
      some { a := 0x80, p := 0xE0, pc := 0x0202, cycles := 2 } := by decide

/-- A24. -/
theorem test_adc_decimal_cmos_page :
    seen (machine cmos [0x7D, 0xFF, 0x20] [(0x2100, 0x01)] { start with a := 0x09, x := 0x01, d := true }) [] =
      some { a := 0x10, x := 0x01, p := 0x28, pc := 0x0203, cycles := 6 } := by decide

/-- A7. -/
theorem test_sbc_overflow :
    seen (machine nmos [0xE9, 0x01] [] { start with a := 0x80, c := true }) [] =
      some { a := 0x7F, p := 0x61, pc := 0x0202, cycles := 2 } := by decide

/-- A19. -/
theorem test_sbc_decimal_borrow :
    seen (machine nmos [0xE9, 0x01] [] { start with d := true, c := true }) [] =
      some { a := 0x99, p := 0xA8, pc := 0x0202, cycles := 2 } := by decide

/-- I3. -/
theorem test_inc_zp_is_binary :
    seen (machine nmos [0xE6, 0x10] [(0x0010, 0x09)] { start with d := true }) [0x0010] =
      some { p := 0x28, pc := 0x0202, cycles := 5, bytes := [0x0A] } := by decide

/-- I5. -/
theorem test_inc_accumulator :
    seen (machine cmos [0x1A] [] { start with a := 0xFF }) [] =
      some { a := 0x00, p := 0x22, pc := 0x0201, cycles := 2 } := by decide

/-- I4. -/
theorem test_dec_absx :
    seen (machine nmos [0xDE, 0xFF, 0x10] [(0x1100, 0x01)] { start with x := 0x01 }) [0x1100] =
      some { x := 0x01, p := 0x22, pc := 0x0203, cycles := 7, bytes := [0x00] } := by decide

/-- I6. -/
theorem test_dec_accumulator :
    seen (machine cmos [0x3A] [] start) [] =
      some { a := 0xFF, p := 0xA0, pc := 0x0201, cycles := 2 } := by decide

/-- I8. -/
theorem test_inx_wraps :
    seen (machine nmos [0xE8] [] { start with x := 0xFF }) [] =
      some { x := 0x00, p := 0x22, pc := 0x0201, cycles := 2 } := by decide

/-- I9. -/
theorem test_iny_negative :
    seen (machine nmos [0xC8] [] { start with y := 0x7F }) [] =
      some { y := 0x80, p := 0xA0, pc := 0x0201, cycles := 2 } := by decide

/-- I10. -/
theorem test_dex_wraps :
    seen (machine nmos [0xCA] [] start) [] =
      some { x := 0xFF, p := 0xA0, pc := 0x0201, cycles := 2 } := by decide

/-- I11. -/
theorem test_dey_zero :
    seen (machine nmos [0x88] [] { start with y := 0x01, n := true }) [] =
      some { y := 0x00, p := 0x22, pc := 0x0201, cycles := 2 } := by decide

/-- H1. -/
theorem test_asl_accumulator :
    seen (machine nmos [0x0A] [] { start with a := 0x81 }) [] =
      some { a := 0x02, p := 0x21, pc := 0x0201, cycles := 2 } := by decide

/-- H9. -/
theorem test_asl_absx_page_cmos :
    seen (machine cmos [0x1E, 0xFF, 0x20] [(0x2100, 0x01)] { start with x := 0x01 }) [0x2100] =
      some { x := 0x01, pc := 0x0203, cycles := 7, bytes := [0x02] } := by decide

/-- H3. -/
theorem test_lsr_accumulator :
    seen (machine nmos [0x4A] [] { start with a := 0x01, n := true }) [] =
      some { a := 0x00, p := 0x23, pc := 0x0201, cycles := 2 } := by decide

/-- H5. -/
theorem test_rol_brings_c_in :
    seen (machine nmos [0x2A] [] { start with a := 0x40, c := true }) [] =
      some { a := 0x81, p := 0xA0, pc := 0x0201, cycles := 2 } := by decide

/-- H6. -/
theorem test_ror_brings_c_in :
    seen (machine nmos [0x6A] [] { start with a := 0x01, c := true }) [] =
      some { a := 0x80, p := 0xA1, pc := 0x0201, cycles := 2 } := by decide

/-- H8. -/
theorem test_ror_absx_nmos :
    seen (machine nmos [0x7E, 0x00, 0x20] [(0x2005, 0x02)] { start with x := 0x05 }) [0x2005] =
      some { x := 0x05, pc := 0x0203, cycles := 7, bytes := [0x01] } := by decide

/-- G4. -/
theorem test_and_izx :
    seen (machine nmos [0x21, 0x20] [(0x0025, 0x30), (0x3000, 0x81)] { start with x := 0x04, a := 0xC3 }) [] =
      some { a := 0x81, x := 0x04, p := 0xA0, pc := 0x0202, cycles := 6 } := by decide

/-- G2. -/
theorem test_ora_imm :
    seen (machine nmos [0x09, 0x80] [] { start with a := 0x01 }) [] =
      some { a := 0x81, p := 0xA0, pc := 0x0202, cycles := 2 } := by decide

/-- G3. -/
theorem test_eor_keeps_v_and_c :
    seen (machine nmos [0x49, 0xFF] [] { start with a := 0xFF, n := true, v := true, c := true }) [] =
      some { a := 0x00, p := 0x63, pc := 0x0202, cycles := 2 } := by decide

/-- K4. -/
theorem test_cmp_borrow :
    seen (machine nmos [0xC9, 0x80] [] start) [] =
      some { p := 0xA0, pc := 0x0202, cycles := 2 } := by decide

/-- K5. -/
theorem test_cmp_is_binary :
    seen (machine nmos [0xC9, 0x10] [] { start with a := 0x09, d := true }) [] =
      some { a := 0x09, p := 0xA8, pc := 0x0202, cycles := 2 } := by decide

/-- K6. -/
theorem test_cpx_greater :
    seen (machine nmos [0xE0, 0x10] [] { start with x := 0x20 }) [] =
      some { x := 0x20, p := 0x21, pc := 0x0202, cycles := 2 } := by decide

/-- K7. -/
theorem test_cpy_equal :
    seen (machine nmos [0xC4, 0x10] [] start) [] =
      some { p := 0x23, pc := 0x0202, cycles := 3 } := by decide

/-- K8. -/
theorem test_bit_zp :
    seen (machine nmos [0x24, 0x10] [(0x0010, 0xC0)] start) [] =
      some { p := 0xE2, pc := 0x0202, cycles := 3 } := by decide

/-- K10. -/
theorem test_bit_imm_keeps_n_and_v :
    seen (machine cmos [0x89, 0xC0] [] { start with a := 0x01 }) [] =
      some { a := 0x01, p := 0x22, pc := 0x0202, cycles := 2 } := by decide

/-- K12. -/
theorem test_tsb_zp :
    seen (machine cmos [0x04, 0x10] [(0x0010, 0xF0)] { start with a := 0x0F }) [0x0010] =
      some { a := 0x0F, p := 0x22, pc := 0x0202, cycles := 5, bytes := [0xFF] } := by decide

/-- K14. -/
theorem test_trb_zp :
    seen (machine cmos [0x14, 0x10] [(0x0010, 0xFF)] { start with a := 0x0F }) [0x0010] =
      some { a := 0x0F, pc := 0x0202, cycles := 5, bytes := [0xF0] } := by decide

/-- K16. -/
theorem test_rmb3 :
    seen (machine full [0x37, 0x10] [(0x0010, 0xFF)] start) [0x0010] =
      some { pc := 0x0202, cycles := 5, bytes := [0xF7] } := by decide

/-- K17. -/
theorem test_smb7 :
    seen (machine full [0xF7, 0x10] [] start) [0x0010] =
      some { pc := 0x0202, cycles := 5, bytes := [0x80] } := by decide

/-- B3. -/
theorem test_bne_back_over_page :
    seen (machine nmos [0xD0, 0xFC] [] start) [] =
      some { pc := 0x01FE, cycles := 4 } := by decide

/-- B1. -/
theorem test_bne_not_taken :
    seen (machine nmos [0xD0, 0x10] [] { start with z := true }) [] =
      some { p := 0x22, pc := 0x0202, cycles := 2 } := by decide

/-- B6. -/
theorem test_beq_wraps :
    seen (machine nmos [0xF0, 0x80] [] { start with z := true, pc := 0x0010 }) [] =
      some { p := 0x22, pc := 0xFF92, cycles := 4 } := by decide

/-- B7. -/
theorem test_bpl_taken :
    seen (machine nmos [0x10, 0x02] [] start) [] =
      some { pc := 0x0204, cycles := 3 } := by decide

/-- B8. -/
theorem test_bmi_not_taken :
    seen (machine nmos [0x30, 0x02] [] start) [] =
      some { pc := 0x0202, cycles := 2 } := by decide

/-- B9. -/
theorem test_bvc_not_taken :
    seen (machine nmos [0x50, 0x02] [] { start with v := true }) [] =
      some { p := 0x60, pc := 0x0202, cycles := 2 } := by decide

/-- B10. -/
theorem test_bvs_taken :
    seen (machine nmos [0x70, 0x02] [] { start with v := true }) [] =
      some { p := 0x60, pc := 0x0204, cycles := 3 } := by decide

/-- B11. -/
theorem test_bcc_taken :
    seen (machine nmos [0x90, 0x02] [] start) [] =
      some { pc := 0x0204, cycles := 3 } := by decide

/-- B12. -/
theorem test_bcs_not_taken :
    seen (machine nmos [0xB0, 0x02] [] start) [] =
      some { pc := 0x0202, cycles := 2 } := by decide

/-- B13. -/
theorem test_bra :
    seen (machine cmos [0x80, 0x02] [] start) [] =
      some { pc := 0x0204, cycles := 3 } := by decide

/-- B15. -/
theorem test_bbr0_taken :
    seen (machine full [0x0F, 0x10, 0x05] [(0x0010, 0xFE)] start) [] =
      some { pc := 0x0208, cycles := 6 } := by decide

/-- B17. -/
theorem test_bbs7_over_page :
    seen (machine full [0xFF, 0x10, 0x20] [(0x0010, 0x80)] { start with pc := 0x02F0 }) [] =
      some { pc := 0x0313, cycles := 7 } := by decide

/-- M10. -/
theorem test_jmp_indirect_nmos :
    seen (machine nmos [0x6C, 0xFF, 0x12] [(0x12FF, 0x00), (0x1200, 0x40), (0x1300, 0x50)] start) [] =
      some { pc := 0x4000, cycles := 5 } := by decide

/-- M11. -/
theorem test_jmp_indirect_cmos :
    seen (machine cmos [0x6C, 0xFF, 0x12] [(0x12FF, 0x00), (0x1200, 0x40), (0x1300, 0x50)] start) [] =
      some { pc := 0x5000, cycles := 6 } := by decide

/-- B19. -/
theorem test_jsr :
    seen (machine nmos [0x20, 0x00, 0x30] [] start) [0x01FF, 0x01FE] =
      some { sp := 0xFD, pc := 0x3000, cycles := 6, bytes := [0x02, 0x02] } := by decide

/-- B21. -/
theorem test_rts_wraps :
    seen (machine nmos [0x60] [(0x01FF, 0xFF), (0x0100, 0x12)] { start with sp := 0xFE, pc := 0x3000 }) [] =
      some { sp := 0x00, pc := 0x1300, cycles := 6 } := by decide

/-- P2. -/
theorem test_pha_wraps :
    seen (machine nmos [0x48] [] { start with a := 0x77, sp := 0x00 }) [0x0100] =
      some { a := 0x77, sp := 0xFF, pc := 0x0201, cycles := 3, bytes := [0x77] } := by decide

/-- P3. -/
theorem test_php :
    seen (machine nmos [0x08] [] { start with n := true, v := true, c := true }) [0x01FF] =
      some { sp := 0xFE, p := 0xE1, pc := 0x0201, cycles := 3, bytes := [0xF1] } := by decide

/-- P6. -/
theorem test_pla_wraps :
    seen (machine nmos [0x68] [(0x0100, 0x80)] start) [] =
      some { a := 0x80, sp := 0x00, p := 0xA0, pc := 0x0201, cycles := 4 } := by decide

/-- P8. -/
theorem test_plp_clears_all :
    seen (machine nmos [0x28] [] { start with sp := 0xFE, n := true, v := true, d := true, i := true, z := true, c := true }) [] =
      some { sp := 0xFF, pc := 0x0201, cycles := 4 } := by decide

/-- P9. -/
theorem test_phx :
    seen (machine cmos [0xDA] [] { start with x := 0x12 }) [0x01FF] =
      some { x := 0x12, sp := 0xFE, pc := 0x0201, cycles := 3, bytes := [0x12] } := by decide

/-- P10. -/
theorem test_phy :
    seen (machine cmos [0x5A] [] { start with y := 0x34 }) [0x01FF] =
      some { y := 0x34, sp := 0xFE, pc := 0x0201, cycles := 3, bytes := [0x34] } := by decide

/-- P11. -/
theorem test_plx :
    seen (machine cmos [0xFA] [(0x01FF, 0x80)] { start with sp := 0xFE }) [] =
      some { x := 0x80, sp := 0xFF, p := 0xA0, pc := 0x0201, cycles := 4 } := by decide

/-- P12. -/
theorem test_ply :
    seen (machine cmos [0x7A] [] { start with y := 0x01, sp := 0xFE }) [] =
      some { y := 0x00, sp := 0xFF, p := 0x22, pc := 0x0201, cycles := 4 } := by decide

/-- P13. -/
theorem test_clc :
    seen (machine nmos [0x18] [] { start with n := true, v := true, d := true, i := true, z := true, c := true }) [] =
      some { p := 0xEE, pc := 0x0201, cycles := 2 } := by decide

/-- P14. -/
theorem test_sec :
    seen (machine nmos [0x38] [] start) [] =
      some { p := 0x21, pc := 0x0201, cycles := 2 } := by decide

/-- P15. -/
theorem test_cli :
    seen (machine nmos [0x58] [] { start with n := true, v := true, d := true, i := true, z := true, c := true }) [] =
      some { p := 0xEB, pc := 0x0201, cycles := 2 } := by decide

/-- P16. -/
theorem test_sei :
    seen (machine nmos [0x78] [] start) [] =
      some { p := 0x24, pc := 0x0201, cycles := 2 } := by decide

/-- P17. -/
theorem test_clv :
    seen (machine nmos [0xB8] [] { start with n := true, v := true, d := true, i := true, z := true, c := true }) [] =
      some { p := 0xAF, pc := 0x0201, cycles := 2 } := by decide

/-- P18. -/
theorem test_cld :
    seen (machine nmos [0xD8] [] { start with n := true, v := true, d := true, i := true, z := true, c := true }) [] =
      some { p := 0xE7, pc := 0x0201, cycles := 2 } := by decide

/-- P19. -/
theorem test_sed :
    seen (machine nmos [0xF8] [] start) [] =
      some { p := 0x28, pc := 0x0201, cycles := 2 } := by decide

/-- P20. -/
theorem test_nop :
    seen (machine nmos [0xEA] [] { start with n := true }) [] =
      some { p := 0xA0, pc := 0x0201, cycles := 2 } := by decide

/-- X1. -/
theorem test_brk_nmos :
    seen (machine nmos [0x00, 0xEA] [(0xFFFF, 0x90)] { start with d := true, c := true }) [0x01FF, 0x01FE, 0x01FD] =
      some { sp := 0xFC, p := 0x2D, pc := 0x9000, cycles := 7, bytes := [0x02, 0x02, 0x39] } := by decide

/-- X2. -/
theorem test_brk_cmos_clears_d :
    seen (machine cmos [0x00, 0xEA] [(0xFFFF, 0x90)] { start with d := true, c := true }) [0x01FF, 0x01FE, 0x01FD] =
      some { sp := 0xFC, p := 0x25, pc := 0x9000, cycles := 7, bytes := [0x02, 0x02, 0x39] } := by decide

/-- X4. -/
theorem test_rti :
    seen (machine nmos [0x40] [(0x01FD, 0xC3), (0x01FE, 0x02), (0x01FF, 0x02)] { start with sp := 0xFC, pc := 0x9000 }) [] =
      some { sp := 0xFF, p := 0xE3, pc := 0x0202, cycles := 6 } := by decide

/-- W1. -/
theorem test_wai :
    seen (machine full [0xCB] [] { start with pc := 0x0300 }) [] =
      some { pc := 0x0301, cycles := 3, run := .waiting } := by decide

/-- W5. -/
theorem test_stp :
    seen (machine full [0xDB] [] { start with pc := 0x0300 }) [] =
      some { pc := 0x0301, cycles := 3, run := .stopped } := by decide

/-- F6 and R335. -/
theorem test_illegal_nmos :
    seen (machine nmos [0x02] [] { start with a := 0x11 }) [] =
      some { a := 0x11, pc := 0x0200, cycles := 0, run := .faulted (.illegalOpcode 0x02 0x0200) } := by decide

/-- Q4. -/
theorem test_nop_star_5c :
    seen (machine cmos [0x5C, 0x34, 0x12] [] { start with n := true, c := true }) [] =
      some { p := 0xA1, pc := 0x0203, cycles := 8 } := by decide

/-- Q8. -/
theorem test_nop_star_one_byte :
    seen (machine cmos [0x0F] [] { start with n := true, c := true }) [] =
      some { p := 0xA1, pc := 0x0201, cycles := 1 } := by decide

/-! ## The adders (section 2.4) -/

/-- A12 to A17. -/
theorem test_addDecimal :
    (addDecimal .nmos 0x99 0x01 false) = { r := 0x00, n := true, v := false, z := false, c := true } ∧
    (addDecimal .cmos 0x99 0x01 false) = { r := 0x00, n := false, v := false, z := true, c := true } ∧
    (addDecimal .nmos 0x58 0x46 true) = { r := 0x05, n := true, v := true, z := false, c := true } ∧
    (addDecimal .cmos 0x0F 0x0F false) = { r := 0x14, n := false, v := false, z := false, c := false } ∧
    (addDecimal .nmos 0x50 0x50 false) = { r := 0x00, n := true, v := true, z := false, c := true } ∧
    (addDecimal .cmos 0x50 0x50 false) = { r := 0x00, n := false, v := true, z := true, c := true } := by decide

/-- A18 to A22. -/
theorem test_subDecimal : ∀ v ∈ [Variant.nmos, Variant.cmos],
    (subDecimal v 0x46 0x12 true) = { r := 0x34, n := false, v := false, z := false, c := true } ∧
    (subDecimal v 0x00 0x01 true) = { r := 0x99, n := true, v := false, z := false, c := false } ∧
    (subDecimal v 0x21 0x34 true) = { r := 0x87, n := true, v := false, z := false, c := false } ∧
    (subDecimal v 0x32 0x02 false) = { r := 0x29, n := false, v := false, z := false, c := true } := by decide

/-! ## Interrupts, faults and the host (sections 2.11 to 2.14) -/

/-- The core of section 2.11: a NOP at 0x0300, NMI vector 0x8000, IRQ vector 0x9000. -/
def interrupted (cfg : Config) (line : Bool) (cpu : CpuState) : State :=
  { machine cfg [0xEA] [(0xFFFB, 0x80), (0xFFFF, 0x90)] { cpu with pc := 0x0300 } with irqLine := line }

/-- N2. -/
theorem test_irq_clears_d_on_cmos :
    seen (interrupted cmos true { start with d := true, c := true }) [0x01FF, 0x01FE, 0x01FD] =
      some { sp := 0xFC, p := 0x25, pc := 0x9000, cycles := 7, bytes := [0x03, 0x00, 0x29] } := by decide

/-- N3. -/
theorem test_irq_masked :
    seen (interrupted nmos true { start with i := true }) [] = some { p := 0x24, pc := 0x0301, cycles := 2 } := by decide

/-- N4 and N5. -/
theorem test_nmi_first :
    seen (interrupted nmos true { start with nmiPending := true }) [0x01FF, 0x01FE, 0x01FD] =
      some { sp := 0xFC, p := 0x24, pc := 0x8000, cycles := 7, bytes := [0x03, 0x00, 0x20] } ∧
    seen (interrupted nmos false { start with i := true, nmiPending := true }) [0x01FD] =
      some { sp := 0xFC, p := 0x24, pc := 0x8000, cycles := 7, bytes := [0x24] } := by decide

/-- W1 to W5, after the WAI or the STP. -/
theorem test_waiting_and_stopped :
    seen (interrupted full false { start with run := .waiting }) [] =
      some { pc := 0x0300, cycles := 0, run := .waiting } ∧
    seen (interrupted full true { start with run := .waiting }) [] =
      some { sp := 0xFC, p := 0x24, pc := 0x9000, cycles := 7 } ∧
    seen (interrupted full true { start with i := true, run := .waiting }) [] =
      some { p := 0x24, pc := 0x0300, cycles := 0 } ∧
    seen (interrupted full true { start with nmiPending := true, run := .stopped }) [] =
      some { pc := 0x0300, cycles := 0, run := .stopped } := by decide

/-- A bus with holes: RAM on 0x0000..0x0100 and 0x0200..0x7FFF, a peripheral on 0x8000..0x80FF and a ROM on
0xC000..0xFFFF. -/
def holed (cfg : Config) (code : List Byte) (cells : List Host.Cell) (cpu : CpuState) : State :=
  { machine cfg code cells cpu with bus :=
    { registry :=
        [{ id := 1, start := 0x0000, stop := 0x0100, kind := .ram }, { id := 2, start := 0x0200, stop := 0x7FFF, kind := .ram }] ++
        [{ id := 3, start := 0x8000, stop := 0x80FF, kind := .peripheral 5 0 }] ++
        [{ id := 4, start := 0xC000, stop := 0xFFFF, kind := .rom }],
      mem := (machine cfg code cells cpu).bus.mem } }

/-- F1 to F4 and F7. -/
theorem test_faults :
    seen (holed nmos [0xAD, 0x00, 0x90] [] { start with a := 0x11 }) [] =
      some { a := 0x11, pc := 0x0200, cycles := 0, run := .faulted (.unmappedAddress 0x9000 .read) } ∧
    seen (holed nmos [0x8D, 0x00, 0xC0] [(0xC000, 0x41)] start) [0xC000] =
      some { pc := 0x0200, cycles := 0, run := .faulted (.readOnlyViolation 0xC000), bytes := [0x41] } ∧
    seen (holed nmos [0xEE, 0x00, 0xC0] [(0xC000, 0x41)] start) [0xC000] =
      some { pc := 0x0200, cycles := 0, run := .faulted (.readOnlyViolation 0xC000), bytes := [0x41] } ∧
    seen (holed nmos [0x20, 0x00, 0x03] [] start) [] =
      some { pc := 0x0200, cycles := 0, run := .faulted (.unmappedAddress 0x01FF .write) } ∧
    step (holed nmos [] [] { start with run := .faulted (.readOnlyViolation 0xC000) }) =
      .fault (.readOnlyViolation 0xC000) :=
  ⟨by decide, by decide, by decide, by decide, rfl⟩

/-- A draw for the tests. -/
def draw : ResetDraw :=
  { a := 1, x := 2, y := 3, sp := 4, n := true, v := true, b := true, d := true, z := true, c := true, ir := 5, pc := 6 }

/-- R1, and the same on CMOS (S2). -/
theorem test_reset :
    hostReset draw (holed nmos [] [(0xFFFD, 0xE0)] { start with run := .stopped, cycles := 9, nmiPending := true }) =
      holed nmos [] [(0xFFFD, 0xE0)]
        { a := 1, x := 2, y := 3, sp := 4, pc := 0xE000, n := true, v := true, b := true, d := true, i := true, z := true
          c := true, ir := 5, cycles := 0, nmiPending := false, run := .running } ∧
    (hostReset draw (holed cmos [] [(0xFFFD, 0xE0)] start)).cpu.d = false := by decide

/-- R2: the vector cannot be read. -/
def vectorless : State :=
  { machine nmos [] [] start with
    bus := { registry := [{ id := 1, start := 0x0000, stop := 0x7FFF, kind := .ram }], mem := [] } }

theorem test_reset_fault :
    (hostReset draw vectorless).cpu.run = .faulted (.unmappedAddress 0xFFFC .read) ∧
      (hostReset draw vectorless).cpu.pc = 6 := by decide

/-- A ROM for the registry calls, with one stored byte. -/
def romAt (id : Nat) (start stop : Addr) : Device :=
  { binding := { id := id, start := start, stop := stop, kind := .rom }, cells := [(stop.toNat, 0x42)] }

/-- S6, R4 and R6, and a device that fits. -/
theorem test_registry :
    registerDevice (romAt 9 0x7000 0xFFFF) vectorless = .failed (.rangeConflict 9) vectorless ∧
    registerDevice (romAt 9 0x8000 0x7FFF) vectorless = .failed (.rangeConflict 9) vectorless ∧
    unregisterDevice 9 vectorless = .failed (.notFound 9) vectorless ∧
    registerDevice (romAt 9 0x8000 0xFFFF) vectorless = .done { vectorless with
      bus := { registry := vectorless.bus.registry ++ [(romAt 9 0x8000 0xFFFF).binding], mem := [(0xFFFF, 0x42)] } } ∧
    unregisterDevice 1 vectorless = .done { vectorless with bus := { registry := [], mem := [] } } := by decide

/-- R7 and R8. -/
theorem test_load :
    load 0x7FFE [1, 2, 3] vectorless = .failed (.unmapped 0x8000) vectorless ∧
    load 0xFFFF [1, 2] (holed nmos [] [] start) = .failed (.unmapped 0x10000) (holed nmos [] [] start) ∧
    load 0xC000 [0xA9, 0x01] (holed nmos [] [] start) = .done (holed nmos [] [(0xC000, 0xA9), (0xC001, 0x01)] start) := by
  decide

/-- The return values of R370. -/
theorem test_stepReport :
    stepReport (interrupted nmos true start) = .interrupted .irq ∧
    stepReport (interrupted nmos false start) = .executed 0xEA ∧
    stepReport (interrupted full true { start with i := true, run := .waiting }) = .woke ∧
    stepReport (interrupted full false { start with run := .stopped }) = .noStep ∧
    stepReport (holed nmos [0x8D, 0x00, 0xC0] [] start) = .fault (.readOnlyViolation 0xC000) := by decide

/-! ## Witnesses

For every obligation with hypotheses, states and operands that meet them, clause by clause. -/

/-- One RAM over the address space, all bytes zero. -/
def ram : Bus := Bus.standard

/-- The bus of `holed`, all bytes zero. -/
def holes : Bus := (holed full [] [] start).bus

/-- RAM from 0x00FF on: a pointer at 0x00FF has its second byte in a hole. -/
def fromFF : Bus := { registry := [{ id := 1, start := 0x00FF, stop := 0xFFFF, kind := .ram }], mem := [] }

/-- RAM from 0x0200 on: there is no zero page and no stack. -/
def from0200 : Bus := { registry := [{ id := 1, start := 0x0200, stop := 0xFFFF, kind := .ram }], mem := [] }

/-- The state of a bus. -/
def stateOf (cfg : Config) (cpu : CpuState) (bus : Bus) : State :=
  { cfg := cfg, cpu := cpu, irqLine := false, bus := bus }

theorem witness_DecodeOfEncode :
    (Instr.bbs7 0xFF 0xFF).wellFormed full = true ∧ (Instr.illegal 0xFF).wellFormed nmos = true ∧
      (Instr.jmp (.iax 0xFFFF)).wellFormed cmos = true := by decide

theorem witness_EncodeOfDecode : decode full [0xFF, 0xFF, 0xFF, 0x00] = .ok (.bbs7 0xFF 0xFF) [0x00] := by decide

theorem witness_OperandsAreAssembledLowByteFirst :
    (0xFF00 : Addr).toNat = (0xFF : Byte).toNat * 256 + (0x00 : Byte).toNat ∧
      (0x00FF : Addr).toNat = (0x00 : Byte).toNat * 256 + (0xFF : Byte).toNat := by decide

theorem witness_CmosExtendsNmos :
    (descOf nmos 0x00).kind = .defined ∧ (descOf nmos 0xFE).kind = .defined ∧
      (descOf nmos 0x04).kind = .illegal ∧ (descOf cmos 0x04).kind = .defined ∧ 0x80#8 ∈ Claims.cmosAdded := by decide

/-- In both variants. -/
theorem witness_BaseCyclesByMode :
    (Instr.asl (.mem (.absx 0x12FF))).wellFormed nmos = true ∧ (Instr.asl (.mem (.absx 0x12FF))).wellFormed cmos = true ∧
      (Instr.nopStar 0x5C (.three 0x00 0x00)).wellFormed cmos = true := by decide

theorem witness_PageCrossIsChargedToTheListedForms :
    (Instr.asl (.mem (.absx 0x12FF))).wellFormed nmos = true ∧ (Instr.asl (.mem (.absx 0x12FF))).wellFormed cmos = true ∧
      (Instr.sta (.absx 0x12FF)).wellFormed nmos = true := by decide

theorem witness_DecimalModeAddsAndSubtractsDecimalNumbers : 99 < 100 ∧ 0 < 100 := by decide

theorem witness_LookupFindsTheOneOwner :
    registryWf full holes.registry = true ∧
    holes.lookup 0xC000 = some { id := 4, start := 0xC000, stop := 0xFFFF, kind := .rom } ∧
    holes.lookup 0xFFFF = some { id := 4, start := 0xC000, stop := 0xFFFF, kind := .rom } ∧
    holes.lookup 0x0100 = some { id := 1, start := 0x0000, stop := 0x0100, kind := .ram } ∧
    holes.lookup 0x0101 = none ∧ holes.lookup 0x01FF = none ∧ holes.lookup 0xBFFF = none := by decide

/-- The peripheral's replies are free: each of the cases that the obligation names is one of these. -/
theorem witness_BusAccessesReachTheOwnerOrFault :
    holes.lookup 0x9000 = none ∧
    (∃ d, holes.lookup 0x8000 = some d ∧ d.kind = .peripheral 5 0) ∧
    (∃ d, holes.lookup 0x80FF = some d ∧ d.kind = .peripheral 5 0) ∧
    (∀ p, (∃ x, (Config.deviceRead 5 0 0x8000 p).value = some x) ∨ (Config.deviceRead 5 0 0x8000 p).value = none) ∧
    ((Config.deviceWrite 5 0 0x8000 0x42 true).result = .stored ∨
      (Config.deviceWrite 5 0 0x8000 0x42 true).result = .readOnly ∨
      (Config.deviceWrite 5 0 0x8000 0x42 true).result = .failed) := by
  refine ⟨rfl, ⟨_, rfl, rfl⟩, ⟨_, rfl, rfl⟩, ?_, ?_⟩
  · intro p
    cases (Config.deviceRead 5 0 0x8000 p).value with
    | none => exact .inr rfl
    | some x => exact .inl ⟨x, rfl⟩
  · cases (Config.deviceWrite 5 0 0x8000 0x42 true).result
    · exact .inl rfl
    · exact .inr (.inl rfl)
    · exact .inr (.inr rfl)

theorem witness_RamAndRomStoreBytes :
    Memory.wf holes.mem = true ∧ (∃ d, holes.lookup 0x0000 = some d ∧ d.kind = .ram) ∧
      (∃ d, holes.lookup 0xFFFF = some d ∧ d.kind = .rom) :=
  ⟨rfl, ⟨_, rfl, rfl⟩, ⟨_, rfl, rfl⟩⟩

theorem witness_InspectorAccessesHaveNoSideEffects :
    (∃ x b, holes.read 0xC000 true = .ok x b) ∧ (∃ f b, holes.read 0x9000 true = .raised f b) ∧
    (∃ x b, inspectRead 0xC000 (stateOf full start holes) = .ok x b) ∧
    (∃ f b, inspectRead 0x9000 (stateOf full start holes) = .raised f b) ∧ (∃ x, holes.peek 0xFFFF = some x) ∧
    (∃ t, inspectWrite 0xC000 0x42 (stateOf full start holes) = .done t) ∧
    (∃ f t, inspectWrite 0x9000 0x42 (stateOf full start holes) = .failed f t) :=
  ⟨⟨_, _, rfl⟩, ⟨_, _, rfl⟩, ⟨_, _, rfl⟩, ⟨_, _, rfl⟩, ⟨_, rfl⟩, ⟨_, rfl⟩, ⟨_, _, rfl⟩⟩

/-- SP = 0x00 and SP = 0xFF, where the stack pointer wraps. -/
theorem witness_PushAndPullUseTheStackPage :
    (∃ b, memWrite (stackAddr 0x00) 0x42 ram = .ok () b) ∧ (∃ f b, memWrite (stackAddr 0xFF) 0x42 holes = .raised f b) ∧
    ((0x00 : Byte).toNat = ((0xFF : Byte).toNat + 1) % 256 ∧ ∃ x b, memRead (stackAddr 0x00) ram = .ok x b) ∧
    ((0xFF : Byte).toNat = ((0xFE : Byte).toNat + 1) % 256 ∧ ∃ f b, memRead (stackAddr 0xFF) holes = .raised f b) ∧
    Memory.wf ram.mem = true ∧ ram.writable (stackAddr 0x00) :=
  ⟨⟨_, rfl⟩, ⟨_, _, rfl⟩, ⟨rfl, _, _, rfl⟩, ⟨rfl, _, _, rfl⟩, rfl, ⟨_, rfl, rfl⟩⟩

/-- Both pointer reads answer, the first raises, and the second raises after the first, at the wraps of the zero page, of
the page and of the address space. -/
theorem witness_PointerModesReadLowThenHigh :
    (∀ lo hi, (lo, hi) ∈ [(0x12FF, 0x1200), (0x12FF, 0x1300), (0xFF, 0x00), (0xFFFF, 0x0000)] →
      ∃ b, Claims.readsInOrder [BitVec.ofNat 16 lo, BitVec.ofNat 16 hi] ram = .ok [0x00, 0x00] b) ∧
    (∃ f b, Claims.readsInOrder [0x9000#16, 0x9001#16] holes = .raised f b) ∧
    (∃ f b, Claims.readsInOrder [0x0000#16, 0x0001#16] from0200 = .raised f b) ∧
    (∃ f b, Claims.readsInOrder [0x00FF#16, 0x0000#16] fromFF = .raised f b) ∧
    (∃ f b, Claims.readsInOrder [0xFFFF#16, 0x0000#16] from0200 = .raised f b) := by
  refine ⟨?_, ⟨_, _, rfl⟩, ⟨_, _, rfl⟩, ⟨_, _, rfl⟩, ⟨_, _, rfl⟩⟩
  intro lo hi h
  simp only [List.mem_cons, Prod.mk.injEq, List.not_mem_nil, or_false] at h
  rcases h with ⟨rfl, rfl⟩ | ⟨rfl, rfl⟩ | ⟨rfl, rfl⟩ | ⟨rfl, rfl⟩ <;> exact ⟨_, rfl⟩

theorem witness_OperandIsImmediateOrOneRead :
    (∃ r b1 v b2, resolve full start (.izy 0xFF) ram = .ok r b1 ∧ memRead r.ea b1 = .ok v b2) ∧
    (∃ r b1 f b2, resolve full start (.abs 0x9000) holes = .ok r b1 ∧ memRead r.ea b1 = .raised f b2) ∧
    (∃ f b1, resolve full start (.izy 0xFF) fromFF = .raised f b1) :=
  ⟨⟨_, _, _, _, rfl, rfl⟩, ⟨_, _, _, _, rfl, rfl⟩, ⟨_, _, rfl⟩⟩

/-- The premises of `Claims.fetchFaults`, in every statement that has it: the core samples an instruction and its
opcode, or the last operand byte, cannot be read. -/
theorem witness_fetchFaults :
    (sample { start with pc := 0x9000 } false = .instruction ∧ ∃ f b, fetch nmos 0x9000 holes = .raised f b) ∧
    (sample { start with pc := 0xFFFE } false = .instruction ∧
      ∃ f b, fetch nmos 0xFFFE { from0200 with mem := [(0xFFFE, 0xBD)] } = .raised f b) ∧
    (sample { start with pc := 0xFFFF } false = .instruction ∧
      ∃ f b, fetch nmos 0xFFFF { from0200 with mem := [(0xFFFF, 0xA9)] } = .raised f b) :=
  ⟨⟨rfl, _, _, rfl⟩, ⟨rfl, _, _, rfl⟩, ⟨rfl, _, _, rfl⟩⟩

/-- The premises of `Claims.illegalOnNmos`, and of `Claims.bitOpcode`. -/
theorem witness_variants :
    nmos.isCmos = false ∧ 0xB2#8 ∈ [0xB2#8] ∧ cmos.isCmos = true ∧ cmos.cmosBitOps = false ∧ cmos.cmosWaiStp = false ∧
      full.isCmos = true ∧ full.cmosBitOps = true ∧ full.cmosWaiStp = true := by decide

theorem witness_WaiAndStpChangeTheRunState :
    full.isCmos = true ∧ full.cmosWaiStp = true ∧ cmos.isCmos = true ∧ cmos.cmosWaiStp = false ∧
      0xDB#8 ∈ [0xCB#8, 0xDB#8] := by decide

/-- The absolute form exists, and its read answers at 0xFFFF and raises in a hole. -/
def readsMet (both cmosOnly : List (ModeKind × Byte)) : Prop :=
  (Claims.opcodeOf full both cmosOnly .abs).isSome = true ∧
  (∃ r b, operandValue full start (.mem (.abs 0xFFFF)) ram = .ok r b) ∧
  (∃ f b, operandValue full start (.mem (.abs 0x9000)) holes = .raised f b)

theorem readsMet_of {both cmosOnly : List (ModeKind × Byte)}
    (h : (Claims.opcodeOf full both cmosOnly .abs).isSome = true) : readsMet both cmosOnly :=
  ⟨h, ⟨_, _, rfl⟩, ⟨_, _, rfl⟩⟩

/-- The absolute form exists, and its write answers at 0xFFFF and raises in a ROM and in a hole. -/
def storesMet (both cmosOnly : List (ModeKind × Byte)) : Prop :=
  (Claims.opcodeOf full both cmosOnly .abs).isSome = true ∧
  (∃ r b b', resolve full start (.abs 0xFFFF) ram = .ok r b ∧ memWrite r.ea 0x00 b = .ok () b' ∧ b.writable r.ea ∧
    Memory.wf ram.mem = true) ∧
  (∃ r b f b', resolve full start (.abs 0xFFFF) holes = .ok r b ∧ memWrite r.ea 0x00 b = .raised f b') ∧
  (∃ r b f b', resolve full start (.abs 0x9000) holes = .ok r b ∧ memWrite r.ea 0x00 b = .raised f b')

theorem storesMet_of {both cmosOnly : List (ModeKind × Byte)}
    (h : (Claims.opcodeOf full both cmosOnly .abs).isSome = true) : storesMet both cmosOnly :=
  ⟨h, ⟨_, _, _, rfl, rfl, ⟨_, rfl, rfl⟩, rfl⟩, ⟨_, _, _, _, rfl, rfl⟩, ⟨_, _, _, _, rfl, rfl⟩⟩

/-- STA's resolution raises where its pointer cannot be read. -/
theorem witness_StoresWriteTheirRegister_unresolved :
    Claims.opcodeOf full [(.izy, 0x91)] [] .izy = some 0x91 ∧ ∃ f b, resolve full start (.izy 0xFF) fromFF = .raised f b :=
  ⟨rfl, _, _, rfl⟩

/-- The absolute form exists; its read and its write answer at 0xFFFF, its read raises in a hole, and its write raises
in a ROM. -/
def modifiesMet (both cmosOnly : List (ModeKind × Byte)) : Prop :=
  (Claims.opcodeOf full both cmosOnly .abs).isSome = true ∧
  (∃ r b v b1, resolve full start (.abs 0xFFFF) ram = .ok r b ∧ memRead r.ea b = .ok v b1 ∧ b1.writable r.ea ∧
    Memory.wf ram.mem = true ∧ ∀ x, ∃ b2, memWrite r.ea x b1 = .ok () b2) ∧
  (∃ r b f b1, resolve full start (.abs 0x9000) holes = .ok r b ∧ memRead r.ea b = .raised f b1) ∧
  (∃ r b v b1, resolve full start (.abs 0xFFFF) holes = .ok r b ∧ memRead r.ea b = .ok v b1 ∧
    ∀ x, ∃ f b2, memWrite r.ea x b1 = .raised f b2)

theorem modifiesMet_of {both cmosOnly : List (ModeKind × Byte)}
    (h : (Claims.opcodeOf full both cmosOnly .abs).isSome = true) : modifiesMet both cmosOnly :=
  ⟨h, ⟨_, _, _, _, rfl, rfl, ⟨_, rfl, rfl⟩, rfl, fun _ => ⟨_, rfl⟩⟩, ⟨_, _, _, _, rfl, rfl⟩,
    ⟨_, _, _, _, rfl, rfl, fun _ => ⟨_, _, rfl⟩⟩⟩

theorem witness_LoadsFillTheirRegister :
    readsMet
      [(.imm, 0xA9), (.zp, 0xA5), (.zpx, 0xB5), (.abs, 0xAD), (.absx, 0xBD),
        (.absy, 0xB9), (.izx, 0xA1), (.izy, 0xB1)]
      [(.zpi, 0xB2)] ∧
    readsMet [(.imm, 0xA2), (.zp, 0xA6), (.zpy, 0xB6), (.abs, 0xAE), (.absy, 0xBE)] [] ∧
    readsMet [(.imm, 0xA0), (.zp, 0xA4), (.zpx, 0xB4), (.abs, 0xAC), (.absx, 0xBC)] [] :=
  ⟨readsMet_of rfl, readsMet_of rfl, readsMet_of rfl⟩

theorem witness_StoresWriteTheirRegister :
    storesMet [(.zp, 0x85), (.zpx, 0x95), (.abs, 0x8D), (.absx, 0x9D), (.absy, 0x99), (.izx, 0x81), (.izy, 0x91)]
      [(.zpi, 0x92)] ∧
    storesMet [(.zp, 0x86), (.zpy, 0x96), (.abs, 0x8E)] [] ∧
    storesMet [(.zp, 0x84), (.zpx, 0x94), (.abs, 0x8C)] [] ∧
    storesMet [] [(.zp, 0x64), (.zpx, 0x74), (.abs, 0x9C), (.absx, 0x9E)] :=
  ⟨storesMet_of rfl, storesMet_of rfl, storesMet_of rfl, storesMet_of rfl⟩

theorem witness_AdcAndSbcAddAndSubtract :
    readsMet
      [(.imm, 0x69), (.zp, 0x65), (.zpx, 0x75), (.abs, 0x6D), (.absx, 0x7D),
        (.absy, 0x79), (.izx, 0x61), (.izy, 0x71)]
      [(.zpi, 0x72)] ∧
    readsMet
      [(.imm, 0xE9), (.zp, 0xE5), (.zpx, 0xF5), (.abs, 0xED), (.absx, 0xFD),
        (.absy, 0xF9), (.izx, 0xE1), (.izy, 0xF1)]
      [(.zpi, 0xF2)] :=
  ⟨readsMet_of rfl, readsMet_of rfl⟩

theorem witness_IncAndDecChangeMemoryOrA :
    modifiesMet [(.zp, 0xE6), (.zpx, 0xF6), (.abs, 0xEE), (.absx, 0xFE)] [(.acc, 0x1A)] ∧
    modifiesMet [(.zp, 0xC6), (.zpx, 0xD6), (.abs, 0xCE), (.absx, 0xDE)] [(.acc, 0x3A)] :=
  ⟨modifiesMet_of rfl, modifiesMet_of rfl⟩

theorem witness_ShiftsAndRotatesByOneBit :
    modifiesMet [(.acc, 0x0A), (.zp, 0x06), (.zpx, 0x16), (.abs, 0x0E), (.absx, 0x1E)] [] ∧
    modifiesMet [(.acc, 0x4A), (.zp, 0x46), (.zpx, 0x56), (.abs, 0x4E), (.absx, 0x5E)] [] ∧
    modifiesMet [(.acc, 0x2A), (.zp, 0x26), (.zpx, 0x36), (.abs, 0x2E), (.absx, 0x3E)] [] ∧
    modifiesMet [(.acc, 0x6A), (.zp, 0x66), (.zpx, 0x76), (.abs, 0x6E), (.absx, 0x7E)] [] :=
  ⟨modifiesMet_of rfl, modifiesMet_of rfl, modifiesMet_of rfl, modifiesMet_of rfl⟩

theorem witness_LogicalInstructionsCombineAWithTheOperand :
    readsMet
      [(.imm, 0x29), (.zp, 0x25), (.zpx, 0x35), (.abs, 0x2D), (.absx, 0x3D),
        (.absy, 0x39), (.izx, 0x21), (.izy, 0x31)]
      [(.zpi, 0x32)] ∧
    readsMet
      [(.imm, 0x09), (.zp, 0x05), (.zpx, 0x15), (.abs, 0x0D), (.absx, 0x1D),
        (.absy, 0x19), (.izx, 0x01), (.izy, 0x11)]
      [(.zpi, 0x12)] ∧
    readsMet
      [(.imm, 0x49), (.zp, 0x45), (.zpx, 0x55), (.abs, 0x4D), (.absx, 0x5D),
        (.absy, 0x59), (.izx, 0x41), (.izy, 0x51)]
      [(.zpi, 0x52)] :=
  ⟨readsMet_of rfl, readsMet_of rfl, readsMet_of rfl⟩

theorem witness_ComparesSetFlagsOnly :
    readsMet
      [(.imm, 0xC9), (.zp, 0xC5), (.zpx, 0xD5), (.abs, 0xCD), (.absx, 0xDD),
        (.absy, 0xD9), (.izx, 0xC1), (.izy, 0xD1)]
      [(.zpi, 0xD2)] ∧
    readsMet [(.imm, 0xE0), (.zp, 0xE4), (.abs, 0xEC)] [] ∧
    readsMet [(.imm, 0xC0), (.zp, 0xC4), (.abs, 0xCC)] [] :=
  ⟨readsMet_of rfl, readsMet_of rfl, readsMet_of rfl⟩

theorem witness_BitTestsTheOperand :
    readsMet [(.zp, 0x24), (.abs, 0x2C)] [(.imm, 0x89), (.zpx, 0x34), (.absx, 0x3C)] :=
  readsMet_of rfl

theorem witness_TsbAndTrbChangeTheBitsOfA :
    modifiesMet [] [(.zp, 0x04), (.abs, 0x0C)] ∧ modifiesMet [] [(.zp, 0x14), (.abs, 0x1C)] :=
  ⟨modifiesMet_of rfl, modifiesMet_of rfl⟩

/-- Bits 0 and 7, with an opcode that is a no-op without CMOS_BIT_OPS and illegal on NMOS. -/
theorem witness_RmbAndSmbChangeOneBit :
    (∀ b : Fin 8, BitVec.ofNat 8 (0x07 + 0x10 * b.val) ∈ nmosIllegal ∧ (Instr.rmb b 0xFF).wellFormed full = true) ∧
    (∃ r b v b1, resolve full start (.zp 0xFF) ram = .ok r b ∧ memRead r.ea b = .ok v b1 ∧
      ∀ x, ∃ b2, memWrite r.ea x b1 = .ok () b2) ∧
    (∃ r b f b1, resolve full start (.zp 0x00) from0200 = .ok r b ∧ memRead r.ea b = .raised f b1) :=
  ⟨by decide, ⟨_, _, _, _, rfl, rfl, fun _ => ⟨_, rfl⟩⟩, ⟨_, _, _, _, rfl, rfl⟩⟩

theorem witness_BranchesTestOneFlag : full.isCmos = true ∧ nmos.isCmos = false := by decide

theorem witness_BbrAndBbsTestOneBit :
    (∃ v b, memRead (BitVec.ofNat 16 (0xFF : Byte).toNat) ram = .ok v b) ∧
    (∃ f b, memRead (BitVec.ofNat 16 (0x00 : Byte).toNat) from0200 = .raised f b) ∧
    full.isCmos = true ∧ full.cmosBitOps = true :=
  ⟨⟨_, _, rfl⟩, ⟨_, _, rfl⟩, rfl, rfl⟩

/-- The second pointer byte of JMP ($FFFF) lies at 0xFF00 on NMOS and at 0x0000 on CMOS. -/
theorem witness_JmpLoadsThePc :
    (∃ r b, resolve nmos start (.ind 0x12FF) ram = .ok r b) ∧ (∃ f b, resolve nmos start (.ind 0x9000) holes = .raised f b) ∧
    (∃ f b, resolve full start (.ind 0xFFFF) from0200 = .raised f b) ∧
    (∃ r b, resolve full start (.iax 0xFFFF) ram = .ok r b) ∧
    (∃ f b, resolve full start (.iax 0xFFFF) from0200 = .raised f b) :=
  ⟨⟨_, _, rfl⟩, ⟨_, _, rfl⟩, ⟨_, _, rfl⟩, ⟨_, _, rfl⟩, ⟨_, _, rfl⟩⟩

/-- Two stack writes that answer, the first that raises, and the second that raises after the first at SP = 0x00; the
same for the reads. -/
theorem witness_JsrAndRtsCallAndReturn :
    (∃ b, Claims.writesInOrder [(stackAddr 0x00, 0x02), (stackAddr 0xFF, 0x02)] ram = .ok () b) ∧
    (∃ f b, Claims.writesInOrder [(stackAddr 0xFF, 0x02), (stackAddr 0xFE, 0x02)] holes = .raised f b) ∧
    (∃ f b, Claims.writesInOrder [(stackAddr 0x00, 0x02), (stackAddr 0xFF, 0x02)] holes = .raised f b) ∧
    (∃ lo hi b, Claims.readsInOrder [stackAddr 0xFF, stackAddr 0x00] ram = .ok [lo, hi] b) ∧
    (∃ f b, Claims.readsInOrder [stackAddr 0xFE, stackAddr 0xFF] holes = .raised f b) ∧
    (∃ f b, Claims.readsInOrder [stackAddr 0x00, stackAddr 0x01] holes = .raised f b) :=
  ⟨⟨_, rfl⟩, ⟨_, _, rfl⟩, ⟨_, _, rfl⟩, ⟨_, _, _, rfl⟩, ⟨_, _, rfl⟩, ⟨_, _, rfl⟩⟩

/-- Also of `RtiUndoesTheEntry`, with the entries that are not faults below. -/
theorem witness_RtsReturnsPastTheJsr :
    (stateOf nmos { start with sp := 0x00 } ram).busWf = true ∧ ram.writable (stackAddr 0x00) ∧
      ram.writable (stackAddr (0x00 - 1#8)) ∧ ram.writable (stackAddr (0x00 - 2#8)) :=
  ⟨rfl, ⟨_, rfl, rfl⟩, ⟨_, rfl, rfl⟩, ⟨_, rfl, rfl⟩⟩

theorem witness_PushesStoreTheirByte :
    (∃ b, memWrite (stackAddr 0x00) 0x77 ram = .ok () b) ∧ ram.writable (stackAddr 0x00) ∧ Memory.wf ram.mem = true ∧
    (∃ f b, memWrite (stackAddr 0xFF) 0x77 holes = .raised f b) :=
  ⟨⟨_, rfl⟩, ⟨_, rfl, rfl⟩, rfl, ⟨_, _, rfl⟩⟩

theorem witness_PullsFillTheirRegister :
    (∃ v b, memRead (stackAddr (0xFF + 1#8)) ram = .ok v b) ∧ (∃ f b, memRead (stackAddr (0xFE + 1#8)) holes = .raised f b) :=
  ⟨⟨_, _, rfl⟩, ⟨_, _, rfl⟩⟩

theorem witness_NoOperationsChangePcAndCyclesOnly :
    (0x03#8).toNat % 16 = 0x3 ∧
    ((0xCB#8).toNat % 16 = 0xB ∧ ¬ (cmos.cmosWaiStp = true ∧ (0xCB#8 = 0xCB#8 ∨ 0xCB#8 = 0xDB#8))) ∧
    ((0xEB#8).toNat % 16 = 0xB ∧ ¬ (full.cmosWaiStp = true ∧ (0xEB#8 = 0xCB#8 ∨ 0xEB#8 = 0xDB#8))) ∧
    ((0xFF#8).toNat % 16 = 0xF ∧ cmos.cmosBitOps = false) := by decide

/-- The premises of `Claims.boundaryAfter`. -/
theorem witness_boundaryAfter :
    (interrupted nmos true start).cpu.run = .running ∧ (interrupted nmos true start).cpu.nmiPending = false ∧
      (interrupted nmos true start).irqLine = true := by decide

/-- What `Claims.waits` and `Claims.stops` speak of: the states after WAI and STP, with every input. -/
theorem witness_waits : ∀ line pending disable : Bool,
    ∃ t, exec .wai { stateOf full { start with nmiPending := pending, i := disable } ram with irqLine := line } = .next t ∧
      t.cpu.nmiPending = pending ∧ t.irqLine = line ∧ t.cpu.i = disable :=
  fun _ _ _ => ⟨_, rfl, rfl, rfl, rfl⟩

/-- The entry to a handler, also of `InterruptEntryPushesAndVectors` by both sources: pushes and vector reads that
answer; a vector read that raises after the pushes; pushes of which the first, or the second at SP = 0x00, raises. -/
theorem witness_BrkEntersTheIrqHandler :
    (∃ b lo hi b', Claims.writesInOrder (Claims.entryPushes start 0x0202 true) ram = .ok () b ∧
      Claims.readsInOrder [0xFFFE#16, 0xFFFF#16] b = .ok [lo, hi] b') ∧
    (∃ b f b', Claims.writesInOrder (Claims.entryPushes start 0x0202 true) vectorless.bus = .ok () b ∧
      Claims.readsInOrder [0xFFFE#16, 0xFFFF#16] b = .raised f b') ∧
    (∃ f b, Claims.writesInOrder (Claims.entryPushes start 0x0202 true) holes = .raised f b) ∧
    (∃ f b, Claims.writesInOrder (Claims.entryPushes { start with sp := 0x00 } 0x0202 true) holes = .raised f b) :=
  ⟨⟨_, _, _, _, rfl, rfl⟩, ⟨_, _, _, rfl, rfl⟩, ⟨_, _, rfl⟩, ⟨_, _, rfl⟩⟩

theorem witness_InterruptEntryPushesAndVectors : ∀ src ∈ [Source.nmi, Source.irq],
    (∃ b lo hi b', Claims.writesInOrder (Claims.entryPushes start 0x0200 false) ram = .ok () b ∧
      Claims.readsInOrder [src.vector, src.vector + 1#16] b = .ok [lo, hi] b') ∧
    (∃ b f b', Claims.writesInOrder (Claims.entryPushes start 0x0200 false) vectorless.bus = .ok () b ∧
      Claims.readsInOrder [src.vector, src.vector + 1#16] b = .raised f b') ∧
    (∃ f b, Claims.writesInOrder (Claims.entryPushes start 0x0200 false) holes = .raised f b) := by
  intro src _
  cases src <;> exact ⟨⟨_, _, _, _, rfl, rfl⟩, ⟨_, _, _, rfl, rfl⟩, ⟨_, _, rfl⟩⟩

theorem witness_RtiRestoresPAndPc :
    (∃ p lo hi b, Claims.readsInOrder [stackAddr 0xFF, stackAddr 0x00, stackAddr 0x01] ram = .ok [p, lo, hi] b) ∧
    (∃ f b, Claims.readsInOrder [stackAddr 0xFD, stackAddr 0xFE, stackAddr 0xFF] holes = .raised f b) ∧
    (∃ f b, Claims.readsInOrder [stackAddr 0x00, stackAddr 0x01, stackAddr 0x02] holes = .raised f b) :=
  ⟨⟨_, _, _, _, rfl⟩, ⟨_, _, rfl⟩, ⟨_, _, rfl⟩⟩

/-- An NMOS core at an illegal opcode, and opcodes that are not illegal on either variant. -/
theorem witness_IllegalOpcodesFaultOnNmos :
    sample start false = .instruction ∧
    (∃ b, memRead 0x0200 (machine nmos [0xFF] [] start).bus = .ok 0xFF b) ∧ nmos.isCmos = false ∧ 0xFF#8 ∈ nmosIllegal ∧
    (0xFE#8 ∉ nmosIllegal ∧ ∃ i more, decode nmos [0xFE, 0x00, 0x00] = .ok i more) ∧
    (cmos.isCmos = true ∧ ∃ i more, decode cmos [0xFF] = .ok i more) :=
  ⟨rfl, ⟨_, rfl⟩, rfl, by decide, ⟨by decide, _, _, rfl⟩, ⟨rfl, _, _, rfl⟩⟩

/-- A three-byte instruction whose operand bytes lie at 0x0000 and 0x0001 after the wrap of PC, with the line high and
I set. -/
theorem witness_StepRunsTheDecodedInstruction :
    decode nmos [0xAD, 0x34, 0x92, 0xEA] = .ok (.lda (.mem (.abs 0x9234))) [0xEA] ∧
    (sample { start with i := true, pc := 0xFFFF } true = .instruction) ∧
    (∀ k, k < 4 - 1 →
      ({ ram with mem := [(0x0000, 0x34), (0x0001, 0x92), (0xFFFF, 0xAD)] } : Bus).peek (0xFFFF + BitVec.ofNat 16 k) =
        [0xAD#8, 0x34#8, 0x92#8, 0xEA#8][k]?) := by decide

/-- The clauses on a running core, and on a waiting one by the same inputs. -/
theorem witness_StepSamplesTheInputs :
    (({ start with nmiPending := true } : CpuState).run = .running ∧
      ({ start with nmiPending := true } : CpuState).nmiPending = true) ∧
    (start.run = .running ∧ start.nmiPending = false ∧ start.i = false) ∧
    (({ start with run := .waiting, i := true } : CpuState).run = .waiting ∧
      ({ start with run := .waiting, i := true } : CpuState).nmiPending = false ∧
      ({ start with run := .waiting, i := true } : CpuState).i = true) ∧
    (interrupted full true start).irqLine = true ∧ (interrupted full false start).irqLine = false ∧
    ({ start with run := .stopped } : CpuState).run = .stopped ∧
    ({ start with run := .faulted (.illegalOpcode 0x02 0xFFFF) } : CpuState).run =
      .faulted (.illegalOpcode 0x02 0xFFFF) := by decide

/-- The entries that `RtiUndoesTheEntry` speaks of complete. -/
theorem witness_RtiUndoesTheEntry :
    (∀ a ∈ Claims.entrySlots { start with sp := 0x01 }, ram.writable a) ∧
    (∃ t, exec (.brk 0xEA) (stateOf cmos { start with sp := 0x01 } ram) = .next t ∧ t.isFaulted = false) ∧
    (takeInterrupt .nmi (stateOf nmos { start with sp := 0x01 } ram)).isFaulted = false ∧
    (takeInterrupt .irq (stateOf cmos { start with sp := 0x01 } ram)).isFaulted = false := by
  refine ⟨?_, ⟨_, rfl, rfl⟩, rfl, rfl⟩
  intro a h
  simp only [Claims.entrySlots, List.mem_cons, List.not_mem_nil, or_false] at h
  rcases h with rfl | rfl | rfl <;> exact ⟨_, rfl, rfl⟩

/-- A step into a fault, from a core that waits (an interrupt entry that cannot push). -/
theorem witness_FaultsRollBackTheProcessor :
    ∃ t, step { stateOf full { start with run := .waiting, nmiPending := true } holes with irqLine := true } = .next t ∧
      t.isFaulted = true ∧ t.cpu.nmiPending = true :=
  ⟨_, rfl, rfl, rfl⟩

theorem witness_OnlyResetLeavesStoppedAndFaulted :
    (stateOf full { start with run := .stopped } ram).cpu.run = .stopped ∧
    (stateOf full { start with run := .faulted (.illegalOpcode 0x02 0x0200) } ram).isFaulted = true ∧
    (∃ lo hi b, Claims.readsInOrder [0xFFFC#16, 0xFFFD#16] ram = .ok [lo, hi] b) ∧
    (∃ f b, Claims.readsInOrder [0xFFFC#16, 0xFFFD#16] vectorless.bus = .raised f b) :=
  ⟨rfl, rfl, ⟨_, _, _, rfl⟩, ⟨_, _, rfl⟩⟩

/-- A vector of which only the first byte can be read (also of `ResetLoadsTheVector`, with the clauses above). -/
theorem witness_ResetLoadsTheVector :
    (∃ lo hi b, Claims.readsInOrder [0xFFFC#16, 0xFFFD#16] ram = .ok [lo, hi] b) ∧
    (∃ f b, Claims.readsInOrder [0xFFFC#16, 0xFFFD#16]
      { registry := [{ id := 1, start := 0x0000, stop := 0xFFFC, kind := .ram }], mem := [] } = .raised f b) :=
  ⟨⟨_, _, _, rfl⟩, ⟨_, _, rfl⟩⟩

/-- A STP step, which leaves Running, from a state with the invariant. -/
theorem witness_EveryStepKeepsTheInvariant :
    (machine full [0xDB] [] start).Inv ∧ ∃ t, step (machine full [0xDB] [] start) = .next t ∧ t.cpu.run = .stopped :=
  ⟨⟨by decide, by decide, by decide⟩, _, rfl, rfl⟩

theorem witness_NoStepChangesTheConfiguration : ∃ t, step (machine full [0x00] [] start) = .next t := ⟨_, rfl⟩

theorem witness_ResetStateHasTheInvariant :
    State.reset.cfg = Config.standard ∧ State.reset.irqLine = false ∧ State.reset.bus = Bus.standard :=
  ⟨rfl, rfl, rfl⟩

/-- A fault and an instruction of 8 cycles. -/
theorem witness_CyclesNeverDecrease :
    (∃ t, step (machine nmos [0x02] [] start) = .next t ∧ t.isFaulted = true) ∧
    (∃ t, step (machine cmos [0x5C] [] start) = .next t ∧ t.cpu.cycles = 8) :=
  ⟨⟨_, rfl, rfl⟩, ⟨_, rfl, rfl⟩⟩

theorem witness_InstructionsWriteOnlyTheirRow :
    ∃ t, exec (.sta (.abs 0xFFFF)) (stateOf nmos { start with a := 0x42 } ram) = .next t ∧
      (stateOf nmos { start with a := 0x42 } ram).isFaulted = false ∧ t.isFaulted = false ∧
      (Claims.writes nmos (.sta (.abs 0xFFFF))).a = false :=
  ⟨_, rfl, rfl, rfl, rfl⟩

/-- Each cause of a conflict, one address of overlap at each end, a device that just fits, and an identity that is there
and one that is not. -/
theorem witness_RegistryCallsKeepTheRanges :
    (stateOf full start holes).busWf = true ∧
    (0x7FFF : Addr).toNat < (0x8000 : Addr).toNat ∧
    (∃ e ∈ holes.registry, ∃ a : Addr, (romAt 9 0x0100 0x01FF).binding.owns a = true ∧ e.owns a = true) ∧
    (∃ e ∈ holes.registry, ∃ a : Addr, (romAt 9 0x0101 0x0200).binding.owns a = true ∧ e.owns a = true) ∧
    (romAt 9 0x0101 0x01FF).binding.fits full = true ∧
    (∀ e ∈ holes.registry, (romAt 9 0x0101 0x01FF).binding.overlaps e = false) ∧
    (∀ e ∈ holes.registry, e.id ≠ 9) ∧
    (∃ e, holes.registry.find? (fun e => e.id == 3) = some e) ∧
    (Memory.wf (romAt 9 0x0101 0x01FF).cells = true ∧ (romAt 9 0x0101 0x01FF).binding.kind = .rom ∧
      (romAt 9 0x0101 0x01FF).binding.owns 0x0101 = true) ∧
    (∃ e x, holes.registry.find? (fun e => e.id == 4) = some e ∧ e.owns 0xC000 = true ∧ holes.peek 0xC000 = some x) ∧
    ((stateOf { full with winLo := 0x1000, winHi := 0x7FFF } start { registry := [], mem := [] }).busWf = true ∧
      (0x0FFF : Addr).toNat < (0x1000 : Addr).toNat ∧ (0x7FFF : Addr).toNat < (0x8000 : Addr).toNat) :=
  ⟨by decide, by decide,
    ⟨{ id := 1, start := 0x0000, stop := 0x0100, kind := .ram }, by decide, 0x0100, by decide, by decide⟩,
    ⟨{ id := 2, start := 0x0200, stop := 0x7FFF, kind := .ram }, by decide, 0x0200, by decide, by decide⟩,
    by decide, by decide, by decide, ⟨_, rfl⟩, by decide, ⟨_, _, rfl, by decide, rfl⟩, by decide, by decide, by decide⟩

/-- A load that ends at 0xFFFF, one that goes past it, and one that meets a hole after its first byte. -/
theorem witness_LoadValidatesThenStores :
    (stateOf full start holes).busWf = true ∧
    (∀ k, k < 2 → 0xFFFE + k < 65536 ∧ (holes.peek (BitVec.ofNat 16 (0xFFFE + k))).isSome = true) ∧
    65536 ≤ 0xFFFF + 1 ∧ (holes.lookup (BitVec.ofNat 16 0xFFFF)).isSome = true ∧
    (holes.lookup (BitVec.ofNat 16 0x7FFF)).isSome = true ∧ (holes.lookup (BitVec.ofNat 16 0x0100)).isSome = true ∧
    holes.lookup (BitVec.ofNat 16 (0x0100 + 1)) = none := by decide

end Sys2Proof.Tests
end

section
/-! The helpers of 00_scope.md: SetNZ, Compare, PackP and UnpackP as numbers and bits (R19, R240, R42), and the stack
page (R18). -/

namespace Sys2Proof.Machine

/-! ## The flag helpers -/

theorem byte_beq_zero_eq_decide (v : Byte) : (v == 0#8) = decide (v.toNat = 0) := by
  rw [Bool.beq_eq_decide_eq]
  exact decide_eq_decide.mpr BitVec.toNat_eq

theorem byte_sub_toNat (r m : Byte) : (r - m).toNat = (r.toNat + 256 - m.toNat) % 256 := by
  have hm : m.toNat < 256 := m.isLt
  rw [BitVec.toNat_sub]
  congr 1
  omega

theorem byte_sub_beq_zero_eq_decide (r m : Byte) : (r - m == 0#8) = decide (r = m) := by
  have hr : r.toNat < 256 := r.isLt
  have hm : m.toNat < 256 := m.isLt
  rw [byte_beq_zero_eq_decide, byte_sub_toNat, decide_eq_decide, BitVec.toNat_eq]
  omega

/-- N and Z as numbers (R14, R19). -/
theorem setNZ_eq (cpu : CpuState) (v : Byte) :
    cpu.setNZ v = { cpu with n := decide (128 ≤ v.toNat), z := decide (v.toNat = 0) } := by
  rw [CpuState.setNZ, bit7_eq_decide, byte_beq_zero_eq_decide]

/-- N, Z and C of the difference as numbers; C is "no borrow" (R240). -/
theorem compare_eq (cpu : CpuState) (r m : Byte) :
    cpu.compare r m =
      { cpu with
        n := decide (128 ≤ (r.toNat + 256 - m.toNat) % 256), z := decide (r = m), c := decide (m.toNat ≤ r.toNat) } := by
  rw [CpuState.compare, CpuState.setNZ, bit7_eq_decide, byte_sub_toNat, byte_sub_beq_zero_eq_decide]

/-- Each flag of the status byte has its weight, and bit 5 its 32 (R42, R45). -/
theorem packP_toNat (cpu : CpuState) (brk : Bool) :
    (cpu.packP brk).toNat = cpu.n.toNat * 128 + cpu.v.toNat * 64 + 32 + brk.toNat * 16 + cpu.d.toNat * 8 +
      cpu.i.toNat * 4 + cpu.z.toNat * 2 + cpu.c.toNat := by
  unfold CpuState.packP
  generalize cpu.n = n, cpu.v = v, cpu.d = d, cpu.i = i, cpu.z = z, cpu.c = c
  revert n v brk d i z c
  decide

/-- Packing what was unpacked gives the byte back with bit 5 set, whatever bit 5 was (R42, R46). -/
theorem packP_unpackP (cpu : CpuState) (p : Byte) : (cpu.unpackP p).packP (p.getLsbD 4) = p ||| 0x20#8 := by
  obtain ⟨h7, h6, h5, h4, h3, h2, h1, h0⟩ := packBits (p.getLsbD 7) (p.getLsbD 6) (p.getLsbD 4) (p.getLsbD 3)
    (p.getLsbD 2) (p.getLsbD 1) (p.getLsbD 0)
  apply BitVec.eq_of_getLsbD_eq
  intro k hk
  rw [CpuState.packP, BitVec.getLsbD_or]
  match k, hk with
  | 0, _ => exact h0.trans (Bool.or_false _).symm
  | 1, _ => exact h1.trans (Bool.or_false _).symm
  | 2, _ => exact h2.trans (Bool.or_false _).symm
  | 3, _ => exact h3.trans (Bool.or_false _).symm
  | 4, _ => exact h4.trans (Bool.or_false _).symm
  | 5, _ => exact h5.trans (Bool.or_true _).symm
  | 6, _ => exact h6.trans (Bool.or_false _).symm
  | 7, _ => exact h7.trans (Bool.or_false _).symm

/-- Settles O9: each helper as one equation of the whole processor state. -/
theorem statusByteAndFlagHelpers : Obligations.StatusByteAndFlagHelpers :=
  ⟨setNZ_eq, compare_eq, packP_toNat, fun cpu p => ⟨rfl, packP_unpackP cpu p⟩⟩

/-! ## The stack -/

theorem byte_pred_toNat (sp : Byte) : (sp - 1#8).toNat = (sp.toNat + 255) % 256 := by
  rw [byte_sub_toNat]
  rfl

theorem byte_eq_succ {sp sp' : Byte} (h : sp'.toNat = (sp.toNat + 1) % 256) : sp' = sp + 1#8 :=
  BitVec.eq_of_toNat_eq (by rw [h, BitVec.toNat_add]; rfl)

theorem push_of_memWrite_ok {v sp : Byte} {b b' : Bus} (h : memWrite (stackAddr sp) v b = .ok () b') :
    push v sp b = .ok (sp - 1#8) b' := by
  rw [push, h, andThen_ok]

theorem push_of_memWrite_raised {v sp : Byte} {b b' : Bus} {f : Fault}
    (h : memWrite (stackAddr sp) v b = .raised f b') : push v sp b = .raised f b' := by
  rw [push, h, andThen_raised]

theorem pull_of_memRead_ok {sp x : Byte} {b b' : Bus} (h : memRead (stackAddr (sp + 1#8)) b = .ok x b') :
    pull sp b = .ok (x, sp + 1#8) b' := by
  rw [pull, h, andThen_ok]

theorem pull_of_memRead_raised {sp : Byte} {b b' : Bus} {f : Fault}
    (h : memRead (stackAddr (sp + 1#8)) b = .raised f b') : pull sp b = .raised f b' := by
  rw [pull, h, andThen_raised]

/-- A byte pushed to a reference RAM is pulled again, and SP is as before (R18, R86). -/
theorem push_then_pull {v sp : Byte} {b : Bus} (hm : Memory.wf b.mem = true) (hw : b.writable (stackAddr sp)) :
    ∃ sp' b', push v sp b = .ok sp' b' ∧ pull sp' b' = .ok (v, sp) b' := by
  refine ⟨_, _, push_of_writable hw v, ?_⟩
  have hsp : sp - 1#8 + 1#8 = sp := BitVec.sub_add_cancel sp 1#8
  have hpeek := peek_write_same hw v hm
  rw [← hsp] at hpeek
  simpa only [hsp] using pull_of_peek hpeek

/-- Settles O18: a push is its write and a pull its read, so each clause is the answer of that one access; the round
trip reads back the stored byte. -/
theorem pushAndPullUseTheStackPage : Obligations.PushAndPullUseTheStackPage := by
  intro sp v b
  refine ⟨stackAddr_toNat sp, ?_, ?_, ?_, ?_, push_then_pull⟩
  · exact fun b' h => ⟨sp - 1#8, push_of_memWrite_ok h, byte_pred_toNat sp⟩
  · exact fun f b' h => push_of_memWrite_raised h
  · rintro sp' x b' hsp h
    cases byte_eq_succ hsp
    exact pull_of_memRead_ok h
  · rintro sp' f b' hsp h
    cases byte_eq_succ hsp
    exact pull_of_memRead_raised h

end Sys2Proof.Machine
end

section
/-! What no step changes (R53): the configuration, the level of the input line, and the devices at their ranges. A step
keeps the canonical form of the stored bytes too, so the predicate says that of the bus as well. -/

namespace Sys2Proof.Machine

/-- Two states of one platform: built with the same configuration, under the same input level, and with the same devices
at the same ranges. -/
structure State.SamePlatform (s t : State) : Prop where
  cfg : t.cfg = s.cfg
  irqLine : t.irqLine = s.irqLine
  bus : s.bus.Keeps t.bus

theorem samePlatform_refl (s : State) : s.SamePlatform s := ⟨rfl, rfl, keeps_refl s.bus⟩

theorem samePlatform_trans {s t u : State} (h : s.SamePlatform t) (h' : t.SamePlatform u) : s.SamePlatform u :=
  ⟨h'.cfg.trans h.cfg, h'.irqLine.trans h.irqLine, keeps_trans h.bus h'.bus⟩

theorem samePlatform_of_bus_keeps {s : State} {b : Bus} (hb : s.bus.Keeps b) : s.SamePlatform { s with bus := b } :=
  ⟨rfl, rfl, hb⟩

theorem abandon_samePlatform {s : State} {b : Bus} (f : Fault) (hb : s.bus.Keeps b) : s.SamePlatform (s.abandon f b) :=
  ⟨rfl, rfl, hb⟩

theorem wake_samePlatform (s : State) : s.SamePlatform s.wake := ⟨rfl, rfl, keeps_refl s.bus⟩

theorem takeInterrupt_samePlatform (src : Source) (s : State) : s.SamePlatform (takeInterrupt src s) := by
  rcases takeInterrupt_cases src s with ⟨f, b, ht, hb⟩ | ⟨pc, b, hb, ht⟩ <;> rw [ht]
  · exact abandon_samePlatform f hb
  · exact ⟨rfl, rfl, hb⟩

/-- The owner of each range is a matter of the layout: the state of a device does not count. -/
theorem ranges_of_sameLayout {b b' : Bus} (h : b.SameLayout b') :
    b'.registry.map (fun d => (d.id, d.start, d.stop)) = b.registry.map (fun d => (d.id, d.start, d.stop)) := by
  have hl := congrArg (List.map fun l : Nat × Addr × Addr × DeviceKind => (l.1, l.2.1, l.2.2.1)) h
  rwa [List.map_map, List.map_map] at hl

/-! ## The shapes of instruction -/

/-- A run instruction leaves the configuration and the input line alone, so its bus decides. -/
theorem runInstr_samePlatform {i : Instr} {s t : State} {body : CpuState → Bus → BusRes Effect}
    (h : runInstr i s body = .next t) (hb : s.bus.Keeps t.bus) : s.SamePlatform t := by
  rcases runInstr_cases h with ⟨e, b, -, rfl⟩ | ⟨f, b, -, rfl⟩ <;> exact ⟨rfl, rfl, hb⟩

/-- The same from the body of the instruction. -/
theorem runInstr_samePlatform_of_body {i : Instr} {s t : State} {body : CpuState → Bus → BusRes Effect}
    (h : runInstr i s body = .next t) (hb : s.bus.Keeps (body (s.cpu.fetched i) s.bus).bus) : s.SamePlatform t :=
  runInstr_samePlatform h (runInstr_bus (P := s.bus.Keeps) hb h)

theorem runRegister_samePlatform {i : Instr} {s t : State} {f : CpuState → CpuState}
    (h : runRegister i s f = .next t) : s.SamePlatform t :=
  runInstr_samePlatform_of_body h (keeps_refl s.bus)

theorem runRead_samePlatform {i : Instr} {o : ReadOperand} {s t : State} {f : Byte → CpuState → CpuState} {extra : Nat}
    (h : runRead i o s f extra = .next t) : s.SamePlatform t :=
  runInstr_samePlatform h (sameStore_keeps (runRead_sameStore h))

theorem runStore_samePlatform {i : Instr} {m : MemMode} {s t : State} {f : CpuState → Byte}
    (h : runStore i m s f = .next t) : s.SamePlatform t :=
  runInstr_samePlatform h (runStore_keeps h)

theorem runModify_samePlatform {i : Instr} {m : MemMode} {s t : State} {f : Byte → CpuState → Byte}
    {g : Byte → CpuState → CpuState} (h : runModify i m s f g = .next t) : s.SamePlatform t :=
  runInstr_samePlatform h (runModify_keeps h)

theorem resetMemoryBit_samePlatform {i : Instr} {k : Nat} {zp : Byte} {s t : State}
    (h : resetMemoryBit i k zp s = .next t) : s.SamePlatform t :=
  runModify_samePlatform h

theorem setMemoryBit_samePlatform {i : Instr} {k : Nat} {zp : Byte} {s t : State}
    (h : setMemoryBit i k zp s = .next t) : s.SamePlatform t :=
  runModify_samePlatform h

theorem runRmw_samePlatform {i : Instr} {o : RmwOperand} {s t : State} {f : Byte → CpuState → Byte}
    {g : Byte → CpuState → CpuState} (h : runRmw i o s f g = .next t) : s.SamePlatform t := by
  cases o with
  | acc => exact runRegister_samePlatform h
  | mem m => exact runModify_samePlatform h

theorem runBranch_samePlatform {i : Instr} {cond : CpuState → Bool} {off : Byte} {s t : State}
    (h : runBranch i cond off s = .next t) : s.SamePlatform t :=
  runInstr_samePlatform_of_body h (keeps_refl s.bus)

theorem runBitBranch_samePlatform {i : Instr} {k : Nat} {set : Bool} {zp off : Byte} {s t : State}
    (h : runBitBranch i k set zp off s = .next t) : s.SamePlatform t :=
  runInstr_samePlatform_of_body h (sameStore_keeps
    (andThen_sameStore (memRead_sameStore _ s.bus) fun _ b _ => sameStore_refl b))

theorem runPush_samePlatform {i : Instr} {s t : State} {f : CpuState → Byte} (h : runPush i s f = .next t) :
    s.SamePlatform t :=
  runInstr_samePlatform_of_body h (andThen_keeps (push_keeps ..) fun _ b _ => keeps_refl b)

theorem runPull_samePlatform {i : Instr} {s t : State} {f : Byte → CpuState → CpuState} (h : runPull i s f = .next t) :
    s.SamePlatform t :=
  runInstr_samePlatform_of_body h (sameStore_keeps
    (andThen_sameStore (pull_sameStore ..) fun _ b _ => sameStore_refl b))

theorem execJmp_samePlatform {m : MemMode} {s t : State} (h : execJmp m s = .next t) : s.SamePlatform t :=
  runInstr_samePlatform_of_body h (sameStore_keeps
    (andThen_sameStore (resolve_sameStore ..) fun _ b _ => sameStore_refl b))

theorem execJsr_samePlatform {target : Addr} {s t : State} (h : execJsr target s = .next t) : s.SamePlatform t :=
  runInstr_samePlatform_of_body h
    (andThen_keeps (push_keeps ..) fun _ b _ => andThen_keeps (push_keeps _ _ b) fun _ b _ => keeps_refl b)

theorem execRts_samePlatform {s t : State} (h : execRts s = .next t) : s.SamePlatform t :=
  runInstr_samePlatform_of_body h (sameStore_keeps
    (andThen_sameStore (pull_sameStore ..) fun _ b _ =>
      andThen_sameStore (pull_sameStore _ b) fun _ b _ => sameStore_refl b))

theorem execBrk_samePlatform {pad : Byte} {s t : State} (h : execBrk pad s = .next t) : s.SamePlatform t :=
  runInstr_samePlatform_of_body h (andThen_keeps (enterHandler_keeps ..) fun _ b _ => keeps_refl b)

theorem execRti_samePlatform {s t : State} (h : execRti s = .next t) : s.SamePlatform t :=
  runInstr_samePlatform_of_body h (sameStore_keeps
    (andThen_sameStore (leaveHandler_sameStore ..) fun _ b _ => sameStore_refl b))

theorem execIllegal_samePlatform {op : Byte} {s t : State} (h : execIllegal op s = .next t) : s.SamePlatform t := by
  cases h
  exact abandon_samePlatform _ (keeps_refl s.bus)

/-! ## Every instruction, and the step -/

/-- No instruction leaves the platform: one case per shape. -/
theorem exec_samePlatform {i : Instr} {s t : State} (h : exec i s = .next t) : s.SamePlatform t := by
  unfold exec at h
  cases i with
  | lda _ | ldx _ | ldy _ | adc _ | sbc _ | and _ | ora _ | eor _ | cmp _ | cpx _ | cpy _ | bit _ =>
    exact runRead_samePlatform h
  | sta _ | stx _ | sty _ | stz _ => exact runStore_samePlatform h
  | inc _ | dec _ | asl _ | lsr _ | rol _ | ror _ => exact runRmw_samePlatform h
  | tsb _ | trb _ => exact runModify_samePlatform h
  | rmb0 _ | rmb1 _ | rmb2 _ | rmb3 _ | rmb4 _ | rmb5 _ | rmb6 _ | rmb7 _ => exact resetMemoryBit_samePlatform h
  | smb0 _ | smb1 _ | smb2 _ | smb3 _ | smb4 _ | smb5 _ | smb6 _ | smb7 _ => exact setMemoryBit_samePlatform h
  | tax | tay | txa | tya | tsx | txs | inx | iny | dex | dey | clc | sec | cli | sei | clv | cld | sed | nop | wai | stp
  | nopStar _ _ => exact runRegister_samePlatform h
  | bpl _ | bmi _ | bvc _ | bvs _ | bcc _ | bcs _ | bne _ | beq _ | bra _ => exact runBranch_samePlatform h
  | bbr0 _ _ | bbr1 _ _ | bbr2 _ _ | bbr3 _ _ | bbr4 _ _ | bbr5 _ _ | bbr6 _ _ | bbr7 _ _
  | bbs0 _ _ | bbs1 _ _ | bbs2 _ _ | bbs3 _ _ | bbs4 _ _ | bbs5 _ _ | bbs6 _ _ | bbs7 _ _ =>
    exact runBitBranch_samePlatform h
  | pha | php | phx | phy => exact runPush_samePlatform h
  | pla | plp | plx | ply => exact runPull_samePlatform h
  | jmp _ => exact execJmp_samePlatform h
  | jsr _ => exact execJsr_samePlatform h
  | rts => exact execRts_samePlatform h
  | brk _ => exact execBrk_samePlatform h
  | rti => exact execRti_samePlatform h
  | illegal _ => exact execIllegal_samePlatform h

/-- An instruction step is the instruction that was fetched, on the bus the fetch left, or the abandoned step
(R114, R335). -/
theorem instructionStep_cases {s t : State} (h : instructionStep s = .next t) :
    (∃ i b, fetch s.cfg s.cpu.pc s.bus = .ok i b ∧ exec i { s with bus := b } = .next t) ∨
      (∃ f b, fetch s.cfg s.cpu.pc s.bus = .raised f b ∧ t = s.abandon f b) := by
  unfold instructionStep at h
  split at h
  · next i b hf => exact .inl ⟨i, b, hf, h⟩
  · next f b hf =>
    cases h
    exact .inr ⟨f, b, hf, rfl⟩

theorem instructionStep_samePlatform {s t : State} (h : instructionStep s = .next t) : s.SamePlatform t := by
  have hk := sameStore_keeps (fetch_sameStore s.cfg s.cpu.pc s.bus)
  rcases instructionStep_cases h with ⟨i, b, hf, he⟩ | ⟨f, b, hf, rfl⟩ <;> rw [hf] at hk
  · exact samePlatform_trans (samePlatform_of_bus_keeps hk) (exec_samePlatform he)
  · exact abandon_samePlatform f hk

/-- The next states of a step, by what the inputs ask for at the boundary (R370). -/
theorem step_cases {s t : State} (h : step s = .next t) :
    (sample s.cpu s.irqLine = .idle ∧ t = s) ∨
      (sample s.cpu s.irqLine = .wake ∧ t = s.wake) ∨
      (∃ src, sample s.cpu s.irqLine = .interrupt src ∧ t = takeInterrupt src s) ∨
      (sample s.cpu s.irqLine = .instruction ∧ instructionStep s = .next t) := by
  unfold step at h
  cases hb : sample s.cpu s.irqLine <;> rw [hb] at h
  case report f => cases h
  case idle => cases h; exact .inl ⟨rfl, rfl⟩
  case wake => cases h; exact .inr (.inl ⟨rfl, rfl⟩)
  case interrupt src => cases h; exact .inr (.inr (.inl ⟨src, rfl, rfl⟩))
  case instruction => exact .inr (.inr (.inr ⟨rfl, h⟩))

/-- Every step stays on its platform, whatever it does at the boundary. -/
theorem step_samePlatform {s t : State} (h : step s = .next t) : s.SamePlatform t := by
  rcases step_cases h with ⟨-, rfl⟩ | ⟨-, rfl⟩ | ⟨src, -, rfl⟩ | ⟨-, hi⟩
  · exact samePlatform_refl t
  · exact wake_samePlatform s
  · exact takeInterrupt_samePlatform src s
  · exact instructionStep_samePlatform hi

/-- Settles O55: each step stays on its platform, and the ranges are part of the layout that the bus keeps. -/
theorem noStepChangesTheConfiguration : Obligations.NoStepChangesTheConfiguration := by
  intro s t h
  obtain ⟨hcfg, hirq, hlayout, -⟩ := step_samePlatform h
  exact ⟨hcfg, hirq, ranges_of_sameLayout hlayout⟩

end Sys2Proof.Machine
end

section
/-! The registry and the reference devices of 20_memory.md: the one owner of an address (R72, R75), and the bytes that a
reference RAM or ROM stores (R86, R87). -/

namespace Sys2Proof.Machine

/-! ## The owner of an address -/

/-- Ownership as numbers (R75). -/
theorem owns_iff {d : Binding} {addr : Addr} :
    d.owns addr = true ↔ d.start.toNat ≤ addr.toNat ∧ addr.toNat ≤ d.stop.toNat := by
  simp only [Binding.owns, Bool.and_eq_true, decide_eq_true_eq]

/-- The first range lies between the bounds, and the others above it (R72). -/
theorem registryWfFrom_cons {hi lo : Nat} {d : Binding} {ds : List Binding} :
    registryWfFrom hi lo (d :: ds) = true ↔
      lo ≤ d.start.toNat ∧ d.start.toNat ≤ d.stop.toNat ∧ d.stop.toNat ≤ hi ∧
        registryWfFrom hi (d.stop.toNat + 1) ds = true := by
  simp only [registryWfFrom, Bool.and_eq_true, decide_eq_true_eq, and_assoc]

/-- Every registered range lies between the bounds (R71, R72). -/
theorem registryWfFrom_bounds {hi : Nat} {d : Binding} {ds : List Binding} {lo : Nat}
    (h : registryWfFrom hi lo ds = true) (hd : d ∈ ds) :
    lo ≤ d.start.toNat ∧ d.start.toNat ≤ d.stop.toNat ∧ d.stop.toNat ≤ hi := by
  induction ds generalizing lo with
  | nil => cases hd
  | cons e ds ih =>
    obtain ⟨hlo, hle, hhi, hrest⟩ := registryWfFrom_cons.mp h
    rcases List.mem_cons.mp hd with rfl | hmem
    · exact ⟨hlo, hle, hhi⟩
    · obtain ⟨habove, hbounds⟩ := ih hrest hmem
      exact ⟨by omega, hbounds⟩

/-- Of two bindings that hold one address neither lies above the other, so both are the same entry. -/
theorem registryWfFrom_owner_unique {hi : Nat} {addr : Addr} {d e : Binding} {ds : List Binding} {lo : Nat}
    (h : registryWfFrom hi lo ds = true) (hd : d ∈ ds) (he : e ∈ ds) (hda : d.owns addr = true)
    (hea : e.owns addr = true) : d = e := by
  induction ds generalizing lo with
  | nil => cases hd
  | cons c ds ih =>
    obtain ⟨-, -, -, hrest⟩ := registryWfFrom_cons.mp h
    have not_both {x : Binding} (hx : x ∈ ds) (hxa : x.owns addr = true) : ¬ c.owns addr = true := by
      intro hca
      obtain ⟨-, hc⟩ := owns_iff.mp hca
      obtain ⟨hstart, -⟩ := owns_iff.mp hxa
      obtain ⟨habove, -⟩ := registryWfFrom_bounds hrest hx
      omega
    rcases List.mem_cons.mp hd with rfl | hdrest <;> rcases List.mem_cons.mp he with rfl | herest
    · rfl
    · exact absurd hda (not_both herest hea)
    · exact absurd hea (not_both hdrest hda)
    · exact ih hrest hdrest herest

/-- What `lookup` answers is registered and holds the address, whatever the registry. -/
theorem mem_and_owns_of_lookup {b : Bus} {addr : Addr} {d : Binding} (h : b.lookup addr = some d) :
    d ∈ b.registry ∧ d.owns addr = true :=
  ⟨List.mem_of_find?_eq_some h, List.find?_some (p := fun e : Binding => e.owns addr) h⟩

/-- `lookup` finds some owner where there is one. -/
theorem exists_lookup_of_owns {b : Bus} {addr : Addr} {d : Binding} (hd : d ∈ b.registry) (ha : d.owns addr = true) :
    ∃ e, b.lookup addr = some e :=
  Option.isSome_iff_exists.mp (List.find?_isSome.mpr ⟨d, hd, ha⟩)

/-- Under the registry invariant `lookup` answers exactly the owner (R75). -/
theorem lookup_eq_some_iff {cfg : Config} {b : Bus} (h : registryWf cfg b.registry = true) {addr : Addr} {d : Binding} :
    b.lookup addr = some d ↔ d ∈ b.registry ∧ d.owns addr = true := by
  refine ⟨mem_and_owns_of_lookup, ?_⟩
  rintro ⟨hd, hda⟩
  obtain ⟨e, hl⟩ := exists_lookup_of_owns hd hda
  obtain ⟨he, hea⟩ := mem_and_owns_of_lookup hl
  rw [hl, registryWfFrom_owner_unique h hd he hda hea]

/-- Settles O14: the ranges rise from the window's start, so an address has at most one owner, and the first that
`lookup` meets is it. -/
theorem lookupFindsTheOneOwner : Obligations.LookupFindsTheOneOwner := by
  intro cfg b addr d h
  refine ⟨?_, registryWfFrom_bounds h, ?_⟩
  · rw [← owns_iff]
    exact lookup_eq_some_iff h
  · intro e hd he hd₁ hd₂ he₁ he₂
    exact registryWfFrom_owner_unique h hd he (owns_iff.mpr ⟨hd₁, hd₂⟩) (owns_iff.mpr ⟨he₁, he₂⟩)

/-! ## The bytes of a reference device -/

section Reference
variable {b : Bus} {addr : Addr} {d : Binding}

/-- A reference device answers with the stored byte (R86, R87). -/
theorem peek_of_reference (hl : b.lookup addr = some d) (hk : d.kind = .ram ∨ d.kind = .rom) :
    b.peek addr = some (Memory.read b.mem addr.toNat) := by
  rcases hk with hk | hk <;> simp only [Bus.peek, hl, hk]

/-- A reference device takes an inspector's write (R86, R87). -/
theorem busWrite_inspector_of_reference (hl : b.lookup addr = some d) (hk : d.kind = .ram ∨ d.kind = .rom) (v : Byte) :
    b.write addr v false = .ok () { b with mem := Memory.write b.mem addr.toNat v } := by
  rcases hk with hk | hk <;> simp [Bus.write, hl, hk]

/-- The origin of a write is nothing to a reference RAM (R86). -/
theorem busWrite_of_ram (hl : b.lookup addr = some d) (hk : d.kind = .ram) (v : Byte) (p : Bool) :
    b.write addr v p = .ok () { b with mem := Memory.write b.mem addr.toNat v } := by
  simp only [Bus.write, hl, hk]

/-- A reference ROM refuses the processor's write, and nothing changes (R87). -/
theorem busWrite_processor_of_rom (hl : b.lookup addr = some d) (hk : d.kind = .rom) (v : Byte) :
    b.write addr v true = .raised (.readOnlyViolation addr) b := by
  simp only [Bus.write, hl, hk, if_true]

/-- The byte stored at a reference device's address is the one that was written there: `peek_write_same` for a ROM too. -/
theorem peek_write_of_reference (hm : Memory.wf b.mem = true) (hl : b.lookup addr = some d)
    (hk : d.kind = .ram ∨ d.kind = .rom) (v : Byte) :
    ({ b with mem := Memory.write b.mem addr.toNat v } : Bus).peek addr = some v := by
  have hl' : ({ b with mem := Memory.write b.mem addr.toNat v } : Bus).lookup addr = some d := hl
  rw [peek_of_reference hl' hk, memory_read_write_same b.mem addr.toNat v hm]

end Reference

/-- A write changes no stored byte but the one at its address, as the words of the statements have it. -/
theorem sameBytesBut_of_busWrite {b b' : Bus} {addr : Addr} {v : Byte} {p : Bool}
    (h : b.write addr v p = .ok () b') : Claims.sameBytesBut [addr] b b' := by
  intro other hother
  have hpeek := busWrite_peek_other b addr other v p (fun he => hother (List.mem_singleton.mpr he))
  rwa [h] at hpeek

/-- Settles O16: an inspector's write to a reference device updates the stored bytes alone, and any read of it is the
stored byte; the processor's write is the same for a RAM and is refused by a ROM. -/
theorem ramAndRomStoreBytes : Obligations.RamAndRomStoreBytes := by
  intro b addr v d hm hl
  refine ⟨?_, ?_, ?_⟩
  · intro hk
    have hpeek := peek_of_reference hl hk
    have hwrite := busWrite_inspector_of_reference hl hk v
    exact ⟨fun p => ⟨_, hpeek, busRead_of_peek hpeek p⟩,
      _, hwrite, sameBytesBut_of_busWrite hwrite, memory_wf_write addr v hm, rfl,
      busRead_of_peek (peek_write_of_reference hm hl hk v)⟩
  · intro hk
    rw [busWrite_of_ram hl hk v true, busWrite_of_ram hl hk v false]
  · intro hk
    exact busWrite_processor_of_rom hl hk v

end Sys2Proof.Machine
end

section
/-! The decoder over the opcode maps: every opcode decodes and takes its descriptor's length (R111, R115), and CMOS keeps
every opcode that NMOS defines and adds 27 to them (R119). -/

namespace Sys2Proof

/-! ## Every opcode decodes (R115) -/

theorem modeKind_length_cases (k : ModeKind) : k.length = 1 ∨ k.length = 2 ∨ k.length = 3 := by
  cases k <;> decide

theorem decode_one {cfg : Config} {op : Byte} (hl : (descOf cfg op).length = 1) (rest : List Byte) :
    decode cfg (op :: rest) = .ok (instrOf cfg op 0#8 0#8) rest := by
  simp only [decode, hl]

theorem decode_two {cfg : Config} {op : Byte} (hl : (descOf cfg op).length = 2) (op1 : Byte) (rest : List Byte) :
    decode cfg (op :: op1 :: rest) = .ok (instrOf cfg op op1 0#8) rest := by
  simp only [decode, hl]

theorem decode_three {cfg : Config} {op : Byte} (hl : (descOf cfg op).length = 3) (op1 op2 : Byte) (rest : List Byte) :
    decode cfg (op :: op1 :: op2 :: rest) = .ok (instrOf cfg op op1 op2) rest := by
  simp only [decode, hl]

/-- Settles O4: a descriptor's mode gives one of three lengths, and for each the decoder reads that many bytes. -/
theorem decodingIsTotal : Obligations.DecodingIsTotal := by
  intro cfg op op1 op2 rest
  obtain hl | hl | hl := modeKind_length_cases (descOf cfg op).mode
  · exact .inl ⟨hl, _, decode_one hl _⟩
  · exact .inr (.inl ⟨hl, _, decode_two hl op1 _⟩)
  · exact .inr (.inr ⟨hl, _, decode_three hl op1 op2 rest⟩)

/-! ## CMOS keeps what NMOS defines and adds to it (R119) -/

/-- What R119 says of one cell of both maps: where the first defines an instruction, the second defines the same one, in
the same mode. Cycles and page penalty may differ. -/
def Desc.ExtendedBy (d e : Desc) : Prop :=
  d.kind = .defined → e.kind = .defined ∧ e.mode = d.mode ∧ e.build = d.build

theorem extendedBy_refl (d : Desc) : d.ExtendedBy d := fun h => ⟨h, rfl, rfl⟩

theorem ill_extendedBy (e : Desc) : Desc.ill.ExtendedBy e := fun h => nomatch h

/-- The shifts in mode absx: 7 cycles on NMOS, 6 and the page penalty on CMOS. -/
theorem rw_extendedBy_rwp (c : RmwOperand → Instr) (k : ModeKind) (n m : Nat) :
    (Desc.rw c k n).ExtendedBy (Desc.rwp c k m) := fun _ => ⟨rfl, rfl, rfl⟩

/-- JMP in mode ind: 5 cycles on NMOS, 6 on CMOS. -/
theorem ea_extendedBy_ea (c : MemMode → Instr) (k : ModeKind) (n m : Nat) :
    (Desc.ea c k n).ExtendedBy (Desc.ea c k m) := fun _ => ⟨rfl, rfl, rfl⟩

/-- Two lists of one length whose entries are related place by place; for lists of lists, `R` is such a relation of
rows. -/
def Cellwise {α : Type} (R : α → α → Prop) : List α → List α → Prop
  | [], [] => True
  | d :: ds, e :: es => R d e ∧ Cellwise R ds es
  | [], _ :: _ | _ :: _, [] => False

theorem cellwise_nil {α : Type} (R : α → α → Prop) : Cellwise R [] [] := trivial

theorem cellwise_cons {α : Type} {R : α → α → Prop} {d e : α} {ds es : List α} :
    Cellwise R (d :: ds) (e :: es) ↔ R d e ∧ Cellwise R ds es := Iff.rfl

/-- Lookups at one place are related, when the defaults are. -/
theorem cellwise_getD {α : Type} {R : α → α → Prop} {d e : α} (hde : R d e) {ds es : List α} (h : Cellwise R ds es)
    (n : Nat) : R (ds.getD n d) (es.getD n e) := by
  induction ds, es using Cellwise.induct generalizing n with
  | case1 => exact hde
  | case2 d' ds e' es ih =>
    obtain ⟨hhead, htail⟩ := cellwise_cons.mp h
    cases n with
    | zero => exact hhead
    | succ n => exact ih htail n
  | case3 => exact h.elim
  | case4 => exact h.elim

theorem cmosMap_extends_nmosMap : Cellwise (Cellwise Desc.ExtendedBy) nmosMap cmosMap := by
  simp only [nmosMap, nmosMap0, nmosMap1, nmosMap2, nmosMap3, nmosMap4, nmosMap5, nmosMap6, nmosMap7,
    nmosMap8, nmosMap9, nmosMapA, nmosMapB, nmosMapC, nmosMapD, nmosMapE, nmosMapF,
    cmosMap, cmosMap0, cmosMap1, cmosMap2, cmosMap3, cmosMap4, cmosMap5, cmosMap6, cmosMap7,
    cmosMap8, cmosMap9, cmosMapA, cmosMapB, cmosMapC, cmosMapD, cmosMapE, cmosMapF,
    List.cons_append, List.nil_append, cellwise_cons, cellwise_nil, extendedBy_refl, ill_extendedBy,
    rw_extendedBy_rwp, ea_extendedBy_ea, and_self]

theorem cellOf_extendedBy (op : Byte) : (cellOf nmosMap op).ExtendedBy (cellOf cmosMap op) :=
  cellwise_getD (extendedBy_refl _) (cellwise_getD (cellwise_nil _) cmosMap_extends_nmosMap _) _

theorem descOf_plain_nmos (op : Byte) : descOf (Claims.plain .nmos) op = cellOf nmosMap op := rfl

theorem descOf_plain_cmos (op : Byte) : descOf (Claims.plain .cmos) op = cellOf cmosMap op := by
  simp only [descOf, Claims.plain, Config.isCmos, Bool.not_true, Bool.and_false, Bool.false_eq_true,
    if_false]

theorem descOf_plain_extendedBy (op : Byte) :
    (descOf (Claims.plain .nmos) op).ExtendedBy (descOf (Claims.plain .cmos) op) := by
  rw [descOf_plain_nmos, descOf_plain_cmos]
  exact cellOf_extendedBy op

/-- The maps compared cell by cell. -/
theorem mem_cmosAdded_iff : ∀ op : Byte, op ∈ Claims.cmosAdded ↔
    (descOf (Claims.plain .nmos) op).kind = .illegal ∧ (descOf (Claims.plain .cmos) op).kind = .defined := by
  decide

/-- Settles O6: the 27 opcodes and their instructions are read off the two maps; an opcode that NMOS defines has on CMOS
a descriptor of the same mode that builds the same instruction. -/
theorem cmosExtendsNmos : Obligations.CmosExtendsNmos := by
  refine ⟨mem_cmosAdded_iff, rfl, ?_, fun _ _ => rfl⟩
  intro op op1 op2 hdefined
  obtain ⟨hkind, hmode, hbuild⟩ := descOf_plain_extendedBy op hdefined
  have hlength := congrArg ModeKind.length hmode
  have hinstr := congrFun (congrFun (congrFun hbuild op) op1) op2
  exact ⟨hkind, hmode, hlength, hinstr⟩

end Sys2Proof
end

section
/-! The addressing modes of 40_addressing.md: the addresses of the direct modes (R145 to R150), the two pointer reads of
the indirect ones (R151 to R155, R164), and the read-class operand (R144, R163). -/

namespace Sys2Proof.Machine

/-! ## Address arithmetic -/

/-- A sum of bytes addresses the zero page: it wraps mod 256 (R146, R147). -/
theorem zext_add_toNat (a i : Byte) : (zext (a + i)).toNat = (a.toNat + i.toNat) % 256 := by
  rw [zext_toNat, BitVec.toNat_add]

theorem zext_add_succ_toNat (a i : Byte) : (zext (a + i + 1#8)).toNat = (a.toNat + i.toNat + 1) % 256 := by
  rw [zext_add_toNat, BitVec.toNat_add]
  exact Nat.mod_add_mod ..

theorem add_zext_toNat (w : Addr) (i : Byte) : (w + zext i).toNat = (w.toNat + i.toNat) % 65536 := by
  rw [BitVec.toNat_add, zext_toNat]

theorem add_zext_succ_toNat (w : Addr) (i : Byte) :
    (w + zext i + 1#16).toNat = (w.toNat + i.toNat + 1) % 65536 := by
  rw [BitVec.toNat_add, add_zext_toNat]
  exact Nat.mod_add_mod ..

/-- An indexed absolute address and its crossing as numbers (R149, R150, R153). -/
theorem indexed_eq (base : Addr) (i : Byte) :
    indexed base i =
      { ea := BitVec.ofNat 16 (base.toNat + i.toNat),
        crossed := decide (base.toNat / 256 ≠ (base.toNat + i.toNat) % 65536 / 256) } := by
  have hea : base + zext i = BitVec.ofNat 16 (base.toNat + i.toNat) :=
    BitVec.eq_of_toNat_eq (by rw [add_zext_toNat, BitVec.toNat_ofNat])
  rw [indexed, crosses_iff, add_zext_toNat, hea]

/-- The second byte of a JMP-indirect pointer: the next address on CMOS, the next in the page on NMOS (R151). -/
theorem indirectHigh_toNat (cfg : Config) (w : Addr) :
    (indirectHigh cfg w).toNat =
      if cfg.isCmos then (w.toNat + 1) % 65536 else w.toNat / 256 * 256 + (w.toNat + 1) % 256 := by
  unfold indirectHigh Config.isCmos
  cases cfg.variant with
  | cmos => exact BitVec.toNat_add w 1#16
  | nmos =>
    change (word (hi8 w) (lo8 w + 1#8)).toNat = w.toNat / 256 * 256 + (w.toNat + 1) % 256
    rw [word_toNat, hi8_toNat, BitVec.toNat_add, lo8_toNat]
    exact congrArg _ (Nat.mod_add_mod ..)

/-! ## The direct modes -/

/-- The answer of an indexed absolute mode: R149 with X, R150 with Y. -/
theorem exists_indexed_ea (w : Addr) (i : Byte) (b : Bus) :
    ∃ ea : Addr, ea.toNat = (w.toNat + i.toNat) % 65536 ∧
      BusRes.ok (indexed w i) b = .ok { ea := ea, crossed := decide (w.toNat / 256 ≠ ea.toNat / 256) } b :=
  ⟨_, BitVec.toNat_ofNat .., by rw [indexed_eq, BitVec.toNat_ofNat]⟩

/-- Settles O19: no direct mode uses the bus, so each clause is the value of the address that its mode computes. -/
theorem directModesComputeTheirAddress : Obligations.DirectModesComputeTheirAddress := by
  intro cfg cpu b
  refine ⟨?zp, ?zpx, ?zpy, ?abs, ?absx, ?absy⟩
  case zp => exact fun a => ⟨zext a, zext_toNat a, rfl⟩
  case zpx => exact fun a => ⟨zext (a + cpu.x), zext_add_toNat a cpu.x, rfl⟩
  case zpy => exact fun a => ⟨zext (a + cpu.y), zext_add_toNat a cpu.y, rfl⟩
  case abs => exact fun w => rfl
  case absx => exact fun w => exists_indexed_ea w cpu.x b
  case absy => exact fun w => exists_indexed_ea w cpu.y b

/-! ## The pointer modes -/

/-- A pointer read is its two byte reads in order (R88, R164), and raises where one of them does. -/
theorem readPointer_of_readsInOrder (lo hi : Addr) (b : Bus) :
    (∀ l h b', Claims.readsInOrder [lo, hi] b = .ok [l, h] b' → readPointer lo hi b = .ok (word h l) b') ∧
    (∀ f b', Claims.readsInOrder [lo, hi] b = .raised f b' → readPointer lo hi b = .raised f b') := by
  simp only [readPointer, Claims.readsInOrder]
  cases memRead lo b with
  | raised f b1 => exact ⟨nofun, fun _ _ h => by cases h; rfl⟩
  | ok l b1 =>
    simp only [andThen_ok]
    cases memRead hi b1 with
    | raised f b2 => exact ⟨nofun, fun _ _ h => by cases h; rfl⟩
    | ok h b2 => exact ⟨fun _ _ _ h => by cases h; rfl, nofun⟩

/-- A mode that resolves by one pointer read meets `Claims.pointer`: resolution writes nothing and raises read faults
alone, so the two reads are all there is to say. -/
theorem pointer_of_resolve {cfg : Config} {cpu : CpuState} {b : Bus} {m : MemMode} {lo hi : Addr} {lo' hi' : Nat}
    {answer : Addr → Resolved} (hlo : lo.toNat = lo') (hhi : hi.toNat = hi')
    (hm : resolve cfg cpu m b = (readPointer lo hi b).andThen fun p b => .ok (answer p) b) :
    Claims.pointer cfg cpu b m lo' hi' answer := by
  subst hlo hhi
  have hsame : Claims.sameBytes b (resolve cfg cpu m b).bus := peek_sameStore (resolve_sameStore cfg cpu m b)
  unfold Claims.pointer
  rw [BitVec.ofNat_toNat, BitVec.setWidth_eq, BitVec.ofNat_toNat, BitVec.setWidth_eq]
  obtain ⟨hok, hraised⟩ := readPointer_of_readsInOrder lo hi b
  constructor
  · intro l h b' hreads
    have hres : resolve cfg cpu m b = .ok (answer (word h l)) b' := by rw [hm, hok l h b' hreads, andThen_ok]
    rw [hres] at hsame
    exact ⟨word h l, word_toNat h l, hres, hsame⟩
  · intro f b' hreads
    have hres : resolve cfg cpu m b = .raised f b' := by rw [hm, hraised f b' hreads, andThen_raised]
    rw [hres] at hsame
    exact ⟨hres, resolve_raised hres, hsame⟩

/-- Settles O20: each mode resolves by one pointer read, so only the values of its two addresses are left to give, and
for izy the indexed address. -/
theorem pointerModesReadLowThenHigh : Obligations.PointerModesReadLowThenHigh := by
  intro cfg cpu b
  refine ⟨?ind, ?izx, ?izy, ?zpi, ?iax⟩
  case ind => exact fun w => pointer_of_resolve rfl (indirectHigh_toNat cfg w) rfl
  case izx => exact fun a => pointer_of_resolve (zext_add_toNat a cpu.x) (zext_add_succ_toNat a cpu.x) rfl
  case izy =>
    intro a
    refine pointer_of_resolve (zext_toNat a) (zext_add_toNat a 1#8) ?_
    simp only [resolve, indexed_eq]
  case zpi => exact fun a => pointer_of_resolve (zext_toNat a) (zext_add_toNat a 1#8) rfl
  case iax => exact fun w => pointer_of_resolve (add_zext_toNat w cpu.x) (add_zext_succ_toNat w cpu.x) rfl

/-! ## The operand -/

section Operand
variable {cfg : Config} {cpu : CpuState} {m : MemMode} {b b1 b2 : Bus} {r : Resolved} {f : Fault}

/-- One read at the resolved address gives the operand (R163). -/
theorem operandValue_of_memRead_ok {v : Byte} (hr : resolve cfg cpu m b = .ok r b1) (hv : memRead r.ea b1 = .ok v b2) :
    operandValue cfg cpu (.mem m) b = .ok { value := v, crossed := r.crossed } b2 := by
  rw [operandValue, hr, andThen_ok, hv, andThen_ok]

theorem operandValue_of_memRead_raised (hr : resolve cfg cpu m b = .ok r b1) (hf : memRead r.ea b1 = .raised f b2) :
    operandValue cfg cpu (.mem m) b = .raised f b2 := by
  rw [operandValue, hr, andThen_ok, hf, andThen_raised]

theorem operandValue_of_resolve_raised (hf : resolve cfg cpu m b = .raised f b1) :
    operandValue cfg cpu (.mem m) b = .raised f b1 := by
  rw [operandValue, hf, andThen_raised]

end Operand

/-- Settles O21: an immediate operand takes no access; any other is the resolution and then its read, so each clause is
the answer of the part that decides it. -/
theorem operandIsImmediateOrOneRead : Obligations.OperandIsImmediateOrOneRead := by
  intro cfg cpu b
  refine ⟨fun v => rfl, ?_, fun m f b1 => operandValue_of_resolve_raised⟩
  exact fun m r b1 hr =>
    ⟨fun v b2 => operandValue_of_memRead_ok hr, fun f b2 => operandValue_of_memRead_raised hr⟩

end Sys2Proof.Machine
end

section
/-! The forms of an instruction (30_encoding.md R110 to R122). The statements of files 41 to 47 list the opcodes of a
mnemonic by addressing mode, for both variants and for CMOS only. `FormTable` holds such lists against the encoder, the
well-formed terms and the two opcode maps; from it follow which forms a configuration has, that each is coded, and that
NMOS has none of the CMOS-only ones. -/

namespace Sys2Proof

/-! ## The cell of an opcode, and the operands after it -/

theorem descOf_nmos {cfg : Config} (h : cfg.isCmos = false) (op : Byte) : descOf cfg op = cellOf nmosMap op := by
  simp only [descOf, h, Bool.not_false, if_true]

/-- An opcode whose cell on CMOS depends on the optional parameters (R122, R123). -/
def isOptional (op : Byte) : Bool := (op.toNat % 16 = 0x7 || op.toNat % 16 = 0xF) || (op = 0xCB || op = 0xDB)

theorem descOf_cmos {cfg : Config} (h : cfg.isCmos = true) {op : Byte} (hop : isOptional op = false) :
    descOf cfg op = cellOf cmosMap op := by
  obtain ⟨hbitOp, hwaiStp⟩ := Bool.or_eq_false_iff.mp hop
  simp only [descOf, h, hbitOp, hwaiStp, Bool.not_true, Bool.false_and, Bool.false_eq_true, if_false]

/-- The decoder takes as many operand bytes as the descriptor's length asks for. -/
theorem decode_operandBytes {cfg : Config} {op : Byte} :
    ∀ {bytes : List Byte}, (descOf cfg op).length = 1 + bytes.length → ∀ rest,
      decode cfg (op :: bytes ++ rest) = .ok (instrOf cfg op (bytes.getD 0 0#8) (bytes.getD 1 0#8)) rest
  | [], hl, rest => decode_one hl rest
  | [op1], hl, rest => decode_two hl op1 rest
  | [op1, op2], hl, rest => decode_three hl op1 op2 rest
  | _ :: _ :: _ :: _, hl, _ => by
    have hcases := modeKind_length_cases (descOf cfg op).mode
    simp only [Desc.length, List.length_cons] at hl
    omega

/-- What the decoder takes from a cell: the mode, and the instruction it makes of the opcode and two operand bytes. -/
def Desc.form (d : Desc) : ModeKind × (Byte → Byte → Byte → Instr) := (d.mode, d.build)

/-- A kind of operand: its mode, its bytes, and the operand that a mode assembles from two bytes; an operand's own mode
and bytes assemble that operand (R111, R112). -/
structure OperandShape (α : Type) where
  kind : α → ModeKind
  bytes : α → List Byte
  assemble : ModeKind → Byte → Byte → α
  length_kind : ∀ o, (kind o).length = 1 + (bytes o).length
  assemble_bytes : ∀ o, assemble (kind o) ((bytes o).getD 0 0#8) ((bytes o).getD 1 0#8) = o

theorem memMode_length_kind (m : MemMode) : m.kind.length = 1 + m.operandBytes.length := by
  cases m <;> rfl

theorem memModeOf_operandBytes (m : MemMode) :
    memModeOf m.kind (m.operandBytes.getD 0 0#8) (m.operandBytes.getD 1 0#8) = m := by
  cases m with
  | zp a | zpx a | zpy a | izx a | izy a | zpi a => rfl
  | abs w => exact congrArg MemMode.abs (word_hi_lo w)
  | absx w => exact congrArg MemMode.absx (word_hi_lo w)
  | absy w => exact congrArg MemMode.absy (word_hi_lo w)
  | ind w => exact congrArg MemMode.ind (word_hi_lo w)
  | iax w => exact congrArg MemMode.iax (word_hi_lo w)

theorem memMode_kind_ne_imm (m : MemMode) : m.kind ≠ .imm := by
  cases m <;> exact nofun

def memShape : OperandShape MemMode where
  kind := MemMode.kind
  bytes := MemMode.operandBytes
  assemble := memModeOf
  length_kind := memMode_length_kind
  assemble_bytes := memModeOf_operandBytes

def readShape : OperandShape ReadOperand where
  kind := ReadOperand.kind
  bytes := ReadOperand.operandBytes
  assemble := readOperandOf
  length_kind
    | .imm _ => rfl
    | .mem m => memMode_length_kind m
  assemble_bytes
    | .imm _ => rfl
    | .mem m => (if_neg (memMode_kind_ne_imm m)).trans (congrArg ReadOperand.mem (memModeOf_operandBytes m))

/-! ## The opcode lists -/

theorem lookup_isSome_eq_contains (l : List (ModeKind × Byte)) (k : ModeKind) :
    (l.lookup k).isSome = (l.map Prod.fst).contains k := by
  rw [Bool.eq_iff_iff, List.lookup_isSome_iff, List.contains_map, List.any_eq_true]

theorem mem_of_lookup {l : List (ModeKind × Byte)} {k : ModeKind} {op : Byte} (h : l.lookup k = some op) :
    (k, op) ∈ l := by
  obtain ⟨_, _, rfl, -⟩ := List.lookup_eq_some_iff.mp h
  exact List.mem_append_right _ (List.mem_cons_self ..)

section Lists
variable {cfg : Config} {both cmosOnly : List (ModeKind × Byte)} {k : ModeKind} {op : Byte}

theorem opcodeOf_nmos (h : cfg.isCmos = false) : Claims.opcodeOf cfg both cmosOnly k = both.lookup k := by
  simp [Claims.opcodeOf, h]

theorem opcodeOf_cmos (h : cfg.isCmos = true) : Claims.opcodeOf cfg both cmosOnly k = (both ++ cmosOnly).lookup k := by
  simp [Claims.opcodeOf, h]

/-- A mode has an opcode exactly when the configuration allows it. -/
theorem opcodeOf_isSome :
    (Claims.opcodeOf cfg both cmosOnly k).isSome = cfg.allows (both.map Prod.fst) (cmosOnly.map Prod.fst) k := by
  cases h : cfg.isCmos with
  | false => simp [opcodeOf_nmos h, Config.allows, h, lookup_isSome_eq_contains]
  | true => simp [opcodeOf_cmos h, Config.allows, h, lookup_isSome_eq_contains, List.lookup_append]

/-- The opcode of a mode is the same in every configuration that has one. -/
theorem lookup_of_opcodeOf (h : Claims.opcodeOf cfg both cmosOnly k = some op) :
    (both ++ cmosOnly).lookup k = some op := by
  cases hc : cfg.isCmos with
  | false => rw [List.lookup_append, ← opcodeOf_nmos hc (cmosOnly := cmosOnly), h, Option.some_or]
  | true => rw [← opcodeOf_cmos hc, h]

end Lists

/-! ## Lists that agree with the tables -/

/-- The opcode lists of a mnemonic, row by row those of the encoder, the well-formed terms and the two maps: the first
list on both, the second on CMOS alone, where no optional parameter touches any of them. -/
structure FormTable {α : Type} (shape : OperandShape α) (build : α → Instr) (both cmosOnly : List (ModeKind × Byte)) :
    Prop where
  opcode : ∀ o, (build o).opcode? = (both ++ cmosOnly).lookup (shape.kind o)
  operandBytes : ∀ o, (build o).operandBytes = shape.bytes o
  wellFormed : ∀ cfg o,
    (build o).wellFormed cfg = cfg.allows (both.map Prod.fst) (cmosOnly.map Prod.fst) (shape.kind o)
  nmos : (both.map fun p => (cellOf nmosMap p.2).form) =
    both.map fun p => (p.1, fun _ op1 op2 => build (shape.assemble p.1 op1 op2))
  cmos : ((both ++ cmosOnly).map fun p => (cellOf cmosMap p.2).form) =
    (both ++ cmosOnly).map fun p => (p.1, fun _ op1 op2 => build (shape.assemble p.1 op1 op2))
  illegal : (cmosOnly.map fun p => cellOf nmosMap p.2) = cmosOnly.map fun _ => Desc.ill
  plain : ((both ++ cmosOnly).any fun p => isOptional p.2) = false

section Table
variable {α : Type} {shape : OperandShape α} {build : α → Instr} {both cmosOnly : List (ModeKind × Byte)}
  {cfg : Config} {op : Byte}

/-- The mnemonic has the listed forms and no other. -/
theorem FormTable.wellFormed_eq (ht : FormTable shape build both cmosOnly) (cfg : Config) (o : α) :
    (build o).wellFormed cfg = (Claims.opcodeOf cfg both cmosOnly (shape.kind o)).isSome := by
  rw [ht.wellFormed, opcodeOf_isSome]

/-- Every configuration that has a form has it in its map. -/
theorem FormTable.form_of_opcodeOf (ht : FormTable shape build both cmosOnly) {k : ModeKind}
    (h : Claims.opcodeOf cfg both cmosOnly k = some op) :
    (descOf cfg op).form = (k, fun _ op1 op2 => build (shape.assemble k op1 op2)) := by
  cases hc : cfg.isCmos with
  | false =>
    rw [opcodeOf_nmos hc] at h
    rw [descOf_nmos hc]
    exact List.map_inj_left.mp ht.nmos (k, op) (mem_of_lookup h)
  | true =>
    rw [opcodeOf_cmos hc] at h
    have hmem := mem_of_lookup h
    have hplain : isOptional op = false := eq_false_of_ne_true (List.any_eq_false.mp ht.plain (k, op) hmem)
    rw [descOf_cmos hc hplain]
    exact List.map_inj_left.mp ht.cmos (k, op) hmem

/-- Each form has its opcode and operand bytes as its encoding, and the decoder reads them as the form. -/
theorem FormTable.coded (ht : FormTable shape build both cmosOnly) {o : α}
    (h : Claims.opcodeOf cfg both cmosOnly (shape.kind o) = some op) :
    Claims.coded cfg (build o) (op :: shape.bytes o) := by
  have hform := ht.form_of_opcodeOf h
  have hlength : (descOf cfg op).length = 1 + (shape.bytes o).length :=
    (congrArg (ModeKind.length ∘ Prod.fst) hform).trans (shape.length_kind o)
  have hbuild : instrOf cfg op ((shape.bytes o).getD 0 0#8) ((shape.bytes o).getD 1 0#8) = build o :=
    (congrArg (fun form => form.2 op ((shape.bytes o).getD 0 0#8) ((shape.bytes o).getD 1 0#8)) hform).trans
      (congrArg build (shape.assemble_bytes o))
  constructor
  · rw [encode, ht.opcode, lookup_of_opcodeOf h, ht.operandBytes, Option.map_some]
  · intro rest
    rw [decode_operandBytes hlength rest, hbuild]

theorem FormTable.illegalOnNmos (ht : FormTable shape build both cmosOnly) (cfg : Config) :
    Claims.illegalOnNmos cfg (cmosOnly.map (·.2)) := by
  intro hc op hop rest
  obtain ⟨p, hp, rfl⟩ := List.mem_map.mp hop
  have hill : descOf cfg p.2 = Desc.ill := (descOf_nmos hc p.2).trans (List.map_inj_left.mp ht.illegal p hp)
  rw [decode_one (congrArg Desc.length hill), instrOf, hill]
  rfl

end Table

end Sys2Proof
end

section
/-! Loads and stores (41_load_store.md), from what holds of every read-class and write-class instruction: the next state
of the access class (R141, R165), the stored bytes it leaves, and its faults. -/

namespace Sys2Proof.Machine

/-! ## The next state in the words of the statements -/

/-- A fetch that raises abandons the step with a read fault, and has stored nothing (R335). -/
theorem fetchFaults_of_state (s : State) : Claims.fetchFaults s := by
  intro hsample f b hf
  have hsame := peek_sameStore (fetch_sameStore s.cfg s.cpu.pc s.bus)
  rw [hf] at hsame
  refine ⟨?_, fetch_raised hf, hsame⟩
  simp only [step, hsample, instructionStep, hf]

/-- An instruction that completed has PC past its bytes, IR its opcode and its cycles added; `cpu` is the rest of its
effect. -/
theorem completed_eq_after {s : State} {i : Instr} {op : Byte} {e : Effect} {b : Bus} {cpu : CpuState}
    (hop : i.opcode? = some op)
    (hcpu : e.cpu = { cpu with
      pc := (s.cpu.fetched i).pc, ir := (s.cpu.fetched i).ir, cycles := (s.cpu.fetched i).cycles }) :
    s.completed i e b = Claims.after s op i.length (i.baseCycles s.cfg + e.extra) cpu b := by
  simp only [State.completed, Claims.after, hcpu, fetched_pc, fetched_ir, fetched_cycles, hop, Option.getD_some]

/-! ## Read-class instructions -/

/-- A read-class instruction whose effect on the registers is `f` of the operand byte, but for what the fetch sets. -/
theorem reads_of_runRead {s : State} {i : Instr} {o : ReadOperand} {op : Byte} {extra : Nat}
    {f : Byte → CpuState} {g : Byte → CpuState → CpuState}
    (hcoded : Claims.coded s.cfg i (op :: o.operandBytes)) (hop : i.opcode? = some op)
    (hbytes : i.operandBytes = o.operandBytes) (hexec : exec i s = runRead i o s g extra)
    (hcpu : ∀ v, g v (s.cpu.fetched i) = { f v with
      pc := (s.cpu.fetched i).pc, ir := (s.cpu.fetched i).ir, cycles := (s.cpu.fetched i).cycles }) :
    Claims.reads s i o op extra f := by
  have hsame : Claims.sameBytes s.bus (operandValue s.cfg s.cpu o s.bus).bus :=
    peek_sameStore (operandValue_sameStore ..)
  refine ⟨hcoded, ?_, ?_⟩ <;> rw [hexec]
  · intro r b hv
    rw [hv] at hsame
    refine ⟨?_, hsame⟩
    rw [runRead_ok hv, completed_eq_after hop (hcpu r.value), Instr.length, hbytes, Nat.add_assoc]
    rfl
  · intro fault b hv
    rw [hv] at hsame
    exact ⟨runRead_raised hv, operandValue_raised hv, hsame⟩

/-- All the forms of a read-class mnemonic, from its opcode lists and its effect. -/
theorem readForms_of_formTable {s : State} {build : ReadOperand → Instr} {both cmosOnly : List (ModeKind × Byte)}
    {extra : Nat} {f : ReadOperand → Byte → CpuState} {g : ReadOperand → Byte → CpuState → CpuState}
    (ht : FormTable readShape build both cmosOnly) (hexec : ∀ o, exec (build o) s = runRead (build o) o s (g o) extra)
    (hcpu : ∀ o v, g o v (s.cpu.fetched (build o)) = { f o v with
      pc := (s.cpu.fetched (build o)).pc, ir := (s.cpu.fetched (build o)).ir,
      cycles := (s.cpu.fetched (build o)).cycles }) :
    Claims.readForms s build both cmosOnly extra f :=
  ⟨ht.wellFormed_eq s.cfg, ht.illegalOnNmos s.cfg, fun o _ h =>
    reads_of_runRead (ht.coded h) ((ht.opcode o).trans (lookup_of_opcodeOf h)) (ht.operandBytes o) (hexec o) (hcpu o)⟩

/-! ## Write-class instructions -/

/-- A write that raises has stored nothing. -/
theorem memWrite_raised_sameStore {addr : Addr} {v : Byte} {b b' : Bus} {f : Fault}
    (h : memWrite addr v b = .raised f b') : b.SameStore b' := by
  rw [memWrite] at h
  rcases busWrite_cases b addr v true with hs | hw
  · rwa [h] at hs
  · rw [h] at hw
    cases hw

/-- The byte that a processor write put into a reference RAM (R86, R95). -/
theorem peek_of_memWrite {addr : Addr} {v : Byte} {b b' : Bus} (h : memWrite addr v b = .ok () b')
    (hw : b.writable addr) (hm : Memory.wf b.mem = true) : b'.peek addr = some v := by
  rw [memWrite_of_writable hw] at h
  cases h
  exact peek_write_same hw v hm

/-- A write-class instruction that writes `v` and leaves the registers as the fetch has them. -/
theorem stores_of_runStore {s : State} {i : Instr} {m : MemMode} {op v : Byte} {g : CpuState → Byte}
    (hcoded : Claims.coded s.cfg i (op :: m.operandBytes)) (hop : i.opcode? = some op)
    (hbytes : i.operandBytes = m.operandBytes) (hexec : exec i s = runStore i m s g)
    (hv : g (s.cpu.fetched i) = v) : Claims.stores s i m op v := by
  subst hv
  have hstore := resolve_sameStore s.cfg s.cpu m s.bus
  refine ⟨hcoded, ?_, ?_⟩ <;> rw [hexec]
  · intro r b hr
    rw [hr] at hstore
    have hsame : Claims.sameBytes s.bus b := peek_sameStore hstore
    constructor
    · intro b' hw
      refine ⟨?next, ?others, ?written⟩
      case next =>
        rw [runStore_ok hr hw, completed_eq_after hop (cpu := s.cpu) rfl, Instr.length, hbytes]
        rfl
      case others => exact fun addr ha => (sameBytesBut_of_busWrite hw addr ha).trans (hsame addr)
      case written => exact fun hwritable hm => peek_of_memWrite hw hwritable (hstore.2 ▸ hm)
    · intro f b' hw
      have hsame' := peek_sameStore (sameStore_trans hstore (memWrite_raised_sameStore hw))
      exact ⟨runStore_raised hr hw, ⟨r.ea, List.mem_singleton_self _, memWrite_raised hw⟩, hsame'⟩
  · intro f b hr
    rw [hr] at hstore
    exact ⟨runStore_unresolved hr, resolve_raised hr, peek_sameStore hstore⟩

/-- All the forms of a write-class mnemonic, from its opcode lists and the byte it writes. -/
theorem storeForms_of_formTable {s : State} {build : MemMode → Instr} {both cmosOnly : List (ModeKind × Byte)}
    {v : Byte} {g : CpuState → Byte} (ht : FormTable memShape build both cmosOnly)
    (hexec : ∀ m, exec (build m) s = runStore (build m) m s g) (hv : ∀ m, g (s.cpu.fetched (build m)) = v) :
    Claims.storeForms s build both cmosOnly v :=
  ⟨ht.wellFormed_eq s.cfg, ht.illegalOnNmos s.cfg, fun m _ h =>
    stores_of_runStore (ht.coded h) ((ht.opcode m).trans (lookup_of_opcodeOf h)) (ht.operandBytes m) (hexec m) (hv m)⟩

/-! ## The instructions of 41_load_store.md -/

theorem exec_lda (o : ReadOperand) (s : State) :
    exec (.lda o) s = runRead (.lda o) o s fun v cpu => { cpu.setNZ v with a := v } := rfl

theorem exec_ldx (o : ReadOperand) (s : State) :
    exec (.ldx o) s = runRead (.ldx o) o s fun v cpu => { cpu.setNZ v with x := v } := rfl

theorem exec_ldy (o : ReadOperand) (s : State) :
    exec (.ldy o) s = runRead (.ldy o) o s fun v cpu => { cpu.setNZ v with y := v } := rfl

theorem exec_sta (m : MemMode) (s : State) : exec (.sta m) s = runStore (.sta m) m s fun cpu => cpu.a := rfl

theorem exec_stx (m : MemMode) (s : State) : exec (.stx m) s = runStore (.stx m) m s fun cpu => cpu.x := rfl

theorem exec_sty (m : MemMode) (s : State) : exec (.sty m) s = runStore (.sty m) m s fun cpu => cpu.y := rfl

theorem exec_stz (m : MemMode) (s : State) : exec (.stz m) s = runStore (.stz m) m s fun _ => 0x00#8 := rfl

/-- Settles O22: each load is a read-class instruction whose opcode lists agree with the tables, row by row; it sets its
register, N and Z. -/
theorem loadsFillTheirRegister : Obligations.LoadsFillTheirRegister := by
  intro s
  refine ⟨fetchFaults_of_state s,
    readForms_of_formTable ?lda (exec_lda · s) fun _ _ => rfl,
    readForms_of_formTable ?ldx (exec_ldx · s) fun _ _ => rfl,
    readForms_of_formTable ?ldy (exec_ldy · s) fun _ _ => rfl⟩
  -- The lists are closed, so a field of the table is one evaluation of the encoder or of the map.
  case lda | ldx | ldy => exact ⟨fun _ => rfl, fun _ => rfl, fun _ _ => rfl, rfl, rfl, rfl, rfl⟩

/-- Settles O23: each store is a write-class instruction whose opcode lists agree with the tables, row by row; it writes
its register as it was before the fetch. -/
theorem storesWriteTheirRegister : Obligations.StoresWriteTheirRegister := by
  intro s
  refine ⟨fetchFaults_of_state s,
    storeForms_of_formTable ?sta (exec_sta · s) fun m => fetched_a s.cpu (.sta m),
    storeForms_of_formTable ?stx (exec_stx · s) fun m => fetched_x s.cpu (.stx m),
    storeForms_of_formTable ?sty (exec_sty · s) fun m => fetched_y s.cpu (.sty m),
    storeForms_of_formTable ?stz (exec_stz · s) fun _ => rfl⟩
  case sta | stx | sty | stz => exact ⟨fun _ => rfl, fun _ => rfl, fun _ _ => rfl, rfl, rfl, rfl, rfl⟩

end Sys2Proof.Machine
end

section
/-! Register transfers (42_transfer.md), from what holds of every one-byte instruction in mode imp that touches registers
alone: the decoder takes its opcode and nothing more, and it completes with the bus as it was (R110, R141, R165). -/

namespace Sys2Proof

/-! ## Instructions of one byte -/

/-- An instruction without operand bytes is coded by its opcode, where the opcode's cell is its own. -/
theorem coded_of_form_imp {cfg : Config} {i : Instr} {op : Byte} (hop : i.opcode? = some op)
    (hbytes : i.operandBytes = []) (hform : (descOf cfg op).form = (.imp, fun _ _ _ => i)) :
    Claims.coded cfg i [op] := by
  have hlength : (descOf cfg op).length = 1 := congrArg (ModeKind.length ∘ Prod.fst) hform
  have hbuild : instrOf cfg op 0#8 0#8 = i := congrArg (fun form => form.2 op 0#8 0#8) hform
  constructor
  · rw [encode, hop, hbytes, Option.map_some]
  · intro rest
    rw [List.singleton_append, decode_one hlength, hbuild]

theorem baseCycles_of_opcode {i : Instr} {op : Byte} (hop : i.opcode? = some op) (cfg : Config) :
    i.baseCycles cfg = (descOf cfg op).baseCycles := by
  simp only [Instr.baseCycles, Instr.desc?, hop, Option.map_some]

/-- A mnemonic of mode imp whose row is the same in every configuration: its encoding, and its cell in both maps. -/
structure ImpliedRow (i : Instr) (op : Byte) (cost : Nat) : Prop where
  opcode : i.opcode? = some op
  operandBytes : i.operandBytes = []
  nmos : cellOf nmosMap op = Desc.imp i cost
  cmos : cellOf cmosMap op = Desc.imp i cost
  plain : isOptional op = false

theorem ImpliedRow.descOf_eq {i : Instr} {op : Byte} {cost : Nat} (hrow : ImpliedRow i op cost) (cfg : Config) :
    descOf cfg op = Desc.imp i cost := by
  cases hc : cfg.isCmos with
  | false => rw [descOf_nmos hc, hrow.nmos]
  | true => rw [descOf_cmos hc hrow.plain, hrow.cmos]

namespace Machine

/-! ## Instructions on registers alone -/

/-- A coded instruction of one byte and a fixed cost, whose effect on the registers gives `cpu`, but for what the fetch
sets. -/
theorem registers_of_runRegister {s : State} {i : Instr} {op : Byte} {cost : Nat} {cpu : CpuState}
    {g : CpuState → CpuState} (hcoded : Claims.coded s.cfg i [op]) (hop : i.opcode? = some op)
    (hbytes : i.operandBytes = []) (hcost : i.baseCycles s.cfg = cost) (hexec : exec i s = runRegister i s g)
    (hcpu : g (s.cpu.fetched i) = { cpu with
      pc := (s.cpu.fetched i).pc, ir := (s.cpu.fetched i).ir, cycles := (s.cpu.fetched i).cycles }) :
    Claims.registers s i op cost cpu := by
  refine ⟨hcoded, ?_⟩
  rw [hexec, runRegister_eq, completed_eq_after hop hcpu, hcost, Instr.length, hbytes]
  rfl

/-- A mnemonic whose row no configuration changes has its coding and its cost from the row. -/
theorem registers_of_impliedRow {s : State} {i : Instr} {op : Byte} {cost : Nat} {cpu : CpuState}
    {g : CpuState → CpuState} (hrow : ImpliedRow i op cost) (hexec : exec i s = runRegister i s g)
    (hcpu : g (s.cpu.fetched i) = { cpu with
      pc := (s.cpu.fetched i).pc, ir := (s.cpu.fetched i).ir, cycles := (s.cpu.fetched i).cycles }) :
    Claims.registers s i op cost cpu := by
  have hdesc := hrow.descOf_eq s.cfg
  have hcoded : Claims.coded s.cfg i [op] :=
    coded_of_form_imp hrow.opcode hrow.operandBytes (congrArg Desc.form hdesc)
  have hcost : i.baseCycles s.cfg = cost :=
    (baseCycles_of_opcode hrow.opcode s.cfg).trans (congrArg Desc.baseCycles hdesc)
  exact registers_of_runRegister hcoded hrow.opcode hrow.operandBytes hcost hexec hcpu

/-! ## The instructions of 42_transfer.md -/

theorem exec_tax (s : State) : exec .tax s = runRegister .tax s fun cpu => { cpu.setNZ cpu.a with x := cpu.a } := rfl

theorem exec_tay (s : State) : exec .tay s = runRegister .tay s fun cpu => { cpu.setNZ cpu.a with y := cpu.a } := rfl

theorem exec_txa (s : State) : exec .txa s = runRegister .txa s fun cpu => { cpu.setNZ cpu.x with a := cpu.x } := rfl

theorem exec_tya (s : State) : exec .tya s = runRegister .tya s fun cpu => { cpu.setNZ cpu.y with a := cpu.y } := rfl

theorem exec_tsx (s : State) : exec .tsx s = runRegister .tsx s fun cpu => { cpu.setNZ cpu.sp with x := cpu.sp } := rfl

theorem exec_txs (s : State) : exec .txs s = runRegister .txs s fun cpu => { cpu with sp := cpu.x } := rfl

/-- Settles O24: each transfer is a register instruction of one row in every configuration; it copies a register that
the fetch left alone, and N and Z follow from it, but for TXS. -/
theorem transfersCopyOneRegister : Obligations.TransfersCopyOneRegister := by
  intro s
  refine ⟨fetchFaults_of_state s,
    registers_of_impliedRow ?tax (exec_tax s) rfl, registers_of_impliedRow ?tay (exec_tay s) rfl,
    registers_of_impliedRow ?txa (exec_txa s) rfl, registers_of_impliedRow ?tya (exec_tya s) rfl,
    registers_of_impliedRow ?tsx (exec_tsx s) rfl, registers_of_impliedRow ?txs (exec_txs s) rfl⟩
  -- Opcode and maps are closed, so a field of the row is one lookup.
  case tax | tay | txa | tya | tsx | txs => exact ⟨rfl, rfl, rfl, rfl, rfl⟩

end Machine

end Sys2Proof
end

section
/-! The adders and subtractors of ADC and SBC (43_arithmetic.md R190 to R193): each result as a number cut to 8 bits,
each flag as a bound on the sum it comes from. -/

namespace Sys2Proof.Machine

/-! ## Bytes as bits, nibbles and signed numbers -/

theorem byte_mask_sign_ne_zero (x : Byte) : (x &&& 0x80#8 != 0#8) = x.getLsbD 7 := by
  change (x &&& BitVec.twoPow 8 7 != 0#8) = _
  rw [BitVec.and_twoPow]
  cases x.getLsbD 7 <;> rfl

theorem byte_not_toNat (m : Byte) : (~~~m).toNat = 255 - m.toNat := BitVec.toNat_not

theorem byte_not_toInt (m : Byte) : (~~~m).toInt = -m.toInt - 1 := by
  have hm : m.toNat < 256 := m.isLt
  rw [byte_toInt, byte_toInt, byte_not_toNat]
  split <;> split <;> omega

theorem byte_ofInt_toNat (s : Int) : ((BitVec.ofInt 8 s).toNat : Int) = s % 256 := by
  rw [BitVec.toNat_ofInt]
  omega

theorem lowNibble_toNat (v : Byte) : (v &&& 0x0F#8).toNat = v.toNat % 16 := by
  rw [BitVec.toNat_and]
  exact Nat.and_two_pow_sub_one_eq_mod v.toNat 4

theorem highNibble_toNat (v : Byte) : (v &&& 0xF0#8).toNat = v.toNat / 16 * 16 := by
  have hv : v.toNat < 256 := v.isLt
  have hlow : (v.toNat &&& 240) % 16 = 0 :=
    (Nat.and_mod_two_pow (n := 4) (a := v.toNat) (b := 240)).trans (Nat.and_zero _)
  have hhigh : (v.toNat &&& 240) / 16 = v.toNat / 16 % 16 :=
    (Nat.and_div_two_pow (n := 4) (a := v.toNat) (b := 240)).trans (Nat.and_two_pow_sub_one_eq_mod _ 4)
  change v.toNat &&& 240 = _
  omega

theorem highNibble_toInt (v : Byte) : (v &&& 0xF0#8).toInt = Claims.signedHigh v.toNat := by
  rw [byte_toInt, highNibble_toNat, Claims.signedHigh]
  split <;> split <;> omega

/-! ## Binary addition and subtraction -/

theorem addBinary_r_toNat (a m : Byte) (c : Bool) :
    (addBinary a m c).r.toNat = (a.toNat + m.toNat + c.toNat) % 256 :=
  BitVec.toNat_ofNat _ 8

theorem addBinary_c (a m : Byte) (c : Bool) :
    (addBinary a m c).c = true ↔ 255 < a.toNat + m.toNat + c.toNat :=
  decide_eq_true_iff

/-- V from the signs of the operands and of the result. -/
theorem addBinary_v_eq (a m : Byte) (c : Bool) :
    (addBinary a m c).v = ((a.getLsbD 7 != (addBinary a m c).r.getLsbD 7) &&
      (m.getLsbD 7 != (addBinary a m c).r.getLsbD 7)) := by
  refine (byte_mask_sign_ne_zero _).trans ?_
  rw [BitVec.getLsbD_and, BitVec.getLsbD_xor, BitVec.getLsbD_xor]
  rfl

/-- Operands of one sign and a result of the other are a signed sum out of range. -/
theorem addBinary_v (a m : Byte) (c : Bool) :
    (addBinary a m c).v = true ↔
      a.toInt + m.toInt + (c.toNat : Int) < -128 ∨ 127 < a.toInt + m.toInt + (c.toNat : Int) := by
  have ha : a.toNat < 256 := a.isLt
  have hm : m.toNat < 256 := m.isLt
  have hc : c.toNat ≤ 1 := Bool.toNat_le c
  rw [addBinary_v_eq, bit7_eq_decide, bit7_eq_decide, bit7_eq_decide, addBinary_r_toNat, byte_toInt, byte_toInt,
    Bool.and_eq_true, bne_iff_ne, bne_iff_ne, ne_eq, ne_eq, decide_eq_decide, decide_eq_decide]
  split <;> split <;> omega

/-- Settles O10: the result and C are the sum itself, and V is read off the three signs. -/
theorem addBinaryComputesSumCarryAndSignedOverflow : Obligations.AddBinaryComputesSumCarryAndSignedOverflow :=
  fun a m c => ⟨addBinary_r_toNat a m c, addBinary_c a m c, addBinary_v a m c, rfl, rfl, Bool.beq_eq_decide_eq ..⟩

/-- The difference and the sum with the complement differ by 256 before the cut. -/
theorem subBinary_r_eq (a m : Byte) (c : Bool) : (subBinary a m c).r = (addBinary a (~~~m) c).r := by
  have hm : m.toNat < 256 := m.isLt
  apply BitVec.eq_of_toNat_eq
  have hsub : ((subBinary a m c).r.toNat : Int) = ((a.toNat : Int) - m.toNat - (1 - c.toNat)) % 256 :=
    byte_ofInt_toNat _
  rw [addBinary_r_toNat, byte_not_toNat]
  omega

theorem subBinary_c_eq (a m : Byte) (c : Bool) : (subBinary a m c).c = (addBinary a (~~~m) c).c := by
  have hm : m.toNat < 256 := m.isLt
  refine decide_eq_decide.mpr ?_
  rw [byte_not_toNat]
  omega

/-- Where A and the result differ in sign, M and A differ in sign just when the complement and the result do. -/
theorem subBinary_v_eq (a m : Byte) (c : Bool) : (subBinary a m c).v = (addBinary a (~~~m) c).v := by
  have hbits : ∀ sa sm sr : Bool, ((sa ^^ sm) && (sa ^^ sr)) = ((sa != sr) && ((!sm) != sr)) := by decide
  refine (byte_mask_sign_ne_zero _).trans ?_
  rw [addBinary_v_eq, ← subBinary_r_eq, BitVec.getLsbD_and, BitVec.getLsbD_xor, BitVec.getLsbD_xor,
    BitVec.getLsbD_not]
  exact hbits (a.getLsbD 7) (m.getLsbD 7) ((subBinary a m c).r.getLsbD 7)

/-- Subtraction is addition of the complement, in the result and in every flag (R191). -/
theorem subBinary_eq_addBinary_not (a m : Byte) (c : Bool) : subBinary a m c = addBinary a (~~~m) c := by
  have hr := subBinary_r_eq a m c
  exact (AluResult.mk.injEq ..).mpr
    ⟨hr, congrArg (·.getLsbD 7) hr, subBinary_v_eq a m c, congrArg (· == 0#8) hr, subBinary_c_eq a m c⟩

/-- Settles O11: each clause is the one of the sum with the complement, which is 255 - M and, signed, -M - 1. -/
theorem subBinaryIsAddBinaryOfTheComplement : Obligations.SubBinaryIsAddBinaryOfTheComplement := by
  intro a m c
  have hm : m.toNat < 256 := m.isLt
  have hadd := subBinary_eq_addBinary_not a m c
  refine ⟨?result, ?carry, ?overflow, rfl, rfl, Bool.beq_eq_decide_eq .., ?complement⟩
  case result =>
    rw [hadd, addBinary_r_toNat, byte_not_toNat]
    congr 1
    omega
  case carry =>
    rw [hadd, addBinary_c, byte_not_toNat]
    omega
  case overflow =>
    rw [hadd, addBinary_v, byte_not_toInt]
    omega
  case complement => exact hadd.trans (congrArg (addBinary a · c) BitVec.xor_allOnes.symm)

/-! ## Decimal addition -/

theorem addLowNibble_eq (a m : Byte) (c : Bool) :
    addLowNibble a m c = Claims.lowSum a.toNat m.toNat c.toNat := by
  rw [addLowNibble, lowNibble_toNat, lowNibble_toNat]
  rfl

/-- The signed intermediate `t` of sequence 2 of R192, from the operands as numbers. -/
def signedDecimalSum (a m c : Nat) : Int := Claims.signedHigh a + Claims.signedHigh m + Claims.lowSum a m c

/-- `AddDecimal` on NMOS: N from the signed intermediate, Z from the binary sum. -/
theorem addDecimal_nmos (a m : Byte) (c : Bool) :
    addDecimal .nmos a m c =
      { r := BitVec.ofNat 8 (Claims.highSum a.toNat m.toNat c.toNat)
        n := (BitVec.ofInt 8 (signedDecimalSum a.toNat m.toNat c.toNat)).getLsbD 7
        v := decide (signedDecimalSum a.toNat m.toNat c.toNat < -128 ∨ 127 < signedDecimalSum a.toNat m.toNat c.toNat)
        z := (a.toNat + m.toNat + c.toNat) % 256 == 0
        c := decide (256 ≤ Claims.highSum a.toNat m.toNat c.toNat) } := by
  simp only [addDecimal, addLowNibble_eq, highNibble_toNat, highNibble_toInt]
  rfl

/-- `AddDecimal` on CMOS: N and Z from the decimal result, all else as on NMOS. -/
theorem addDecimal_cmos (a m : Byte) (c : Bool) :
    addDecimal .cmos a m c =
      { addDecimal .nmos a m c with
        n := (addDecimal .nmos a m c).r.getLsbD 7, z := (addDecimal .nmos a m c).r == 0#8 } := rfl

/-- Sequence 1 of R192 and its V, which are those of both variants. -/
theorem addDecimal_shared (v : Variant) (a m : Byte) (c : Bool) :
    (addDecimal v a m c).r.toNat = Claims.highSum a.toNat m.toNat c.toNat % 256 ∧
    ((addDecimal v a m c).c = true ↔ 256 ≤ Claims.highSum a.toNat m.toNat c.toNat) ∧
    ((addDecimal v a m c).v = true ↔
      signedDecimalSum a.toNat m.toNat c.toNat < -128 ∨ 127 < signedDecimalSum a.toNat m.toNat c.toNat) := by
  have hnmos := addDecimal_nmos a m c
  cases v with
  | nmos =>
    rw [hnmos]
    exact ⟨BitVec.toNat_ofNat _ 8, decide_eq_true_iff, decide_eq_true_iff⟩
  | cmos =>
    rw [addDecimal_cmos, hnmos]
    exact ⟨BitVec.toNat_ofNat _ 8, decide_eq_true_iff, decide_eq_true_iff⟩

/-- N on NMOS is bit 7 of the signed intermediate. -/
theorem addDecimal_nmos_n (a m : Byte) (c : Bool) :
    (addDecimal .nmos a m c).n = true ↔ 128 ≤ signedDecimalSum a.toNat m.toNat c.toNat % 256 := by
  rw [addDecimal_nmos, bit7_eq_decide, decide_eq_true_iff, ← byte_ofInt_toNat]
  omega

theorem addDecimal_nmos_z (a m : Byte) (c : Bool) :
    (addDecimal .nmos a m c).z = true ↔ (a.toNat + m.toNat + c.toNat) % 256 = 0 :=
  beq_iff_eq

/-! ## Decimal subtraction -/

theorem subLowNibble_eq (a m : Byte) (c : Bool) :
    subLowNibble a m c = (a.toNat : Int) % 16 - (m.toNat : Int) % 16 + (c.toNat : Int) - 1 := by
  rw [subLowNibble, lowNibble_toNat, lowNibble_toNat]
  rfl

/-- Sequence 3 of R193. -/
theorem subDecimal_nmos_r (a m : Byte) (c : Bool) :
    ((subDecimal .nmos a m c).r.toNat : Int) = Claims.nmosDifference a.toNat m.toNat c.toNat % 256 := by
  have hr : (subDecimal .nmos a m c).r = BitVec.ofInt 8 (Claims.nmosDifference a.toNat m.toNat c.toNat) := by
    simp only [subDecimal, subDecimalNmosResult, subLowNibble_eq, highNibble_toNat]
    rfl
  rw [hr, byte_ofInt_toNat]

/-- Sequence 4 of R193: its two corrections are made one after the other or together. -/
theorem subDecimal_cmos_r (a m : Byte) (c : Bool) :
    ((subDecimal .cmos a m c).r.toNat : Int) = Claims.cmosDifference a.toNat m.toNat c.toNat % 256 := by
  have hr : (subDecimal .cmos a m c).r = BitVec.ofInt 8 (Claims.cmosDifference a.toNat m.toNat c.toNat) := by
    simp only [subDecimal, subDecimalCmosResult, subLowNibble_eq, Claims.cmosDifference]
    congr 1
    split <;> split <;> omega
  rw [hr, byte_ofInt_toNat]

/-- Settles O12: the sequences of the model are those of the claim once nibbles are numbers; a decimal subtraction has
the flags of the binary one, but for N and Z on CMOS. -/
theorem decimalSequencesOfBothVariants : Obligations.DecimalSequencesOfBothVariants := by
  intro a m c
  have hflags : ∀ v : Variant,
      (subDecimal v a m c).c = (subBinary a m c).c ∧ (subDecimal v a m c).v = (subBinary a m c).v
    | .nmos | .cmos => ⟨rfl, rfl⟩
  exact ⟨fun v => addDecimal_shared v a m c, addDecimal_nmos_n a m c, addDecimal_nmos_z a m c, rfl,
    Bool.beq_eq_decide_eq .., subDecimal_nmos_r a m c, subDecimal_cmos_r a m c, hflags, rfl, rfl, rfl,
    Bool.beq_eq_decide_eq ..⟩

end Sys2Proof.Machine
end

section
/-! ADC and SBC (43_arithmetic.md R194 to R197), from what holds of every read-class instruction. -/

namespace Sys2Proof.Machine

/-- The model's test of decimal mode is R196. -/
theorem decimalActive_eq (s : State) : decimalActive s.cfg s.cpu.d = Claims.decimal s := by
  rw [decimalActive, Claims.decimal, Config.hasDecimal, Config.isCmos]
  cases s.cfg.variant <;> rfl

theorem decimalExtra_eq (s : State) :
    decimalExtra s = if Claims.decimal s && s.cfg.isCmos then 1 else 0 := by
  rw [decimalExtra, decimalActive_eq, Bool.and_comm]

theorem adcResult_eq (s : State) (m : Byte) :
    adcResult s.cfg s.cpu.d s.cpu.a m s.cpu.c =
      if Claims.decimal s then addDecimal s.cfg.variant s.cpu.a m s.cpu.c else addBinary s.cpu.a m s.cpu.c := by
  rw [adcResult, decimalActive_eq]

theorem sbcResult_eq (s : State) (m : Byte) :
    sbcResult s.cfg s.cpu.d s.cpu.a m s.cpu.c =
      if Claims.decimal s then subDecimal s.cfg.variant s.cpu.a m s.cpu.c else subBinary s.cpu.a m s.cpu.c := by
  rw [sbcResult, decimalActive_eq]

theorem exec_adc (o : ReadOperand) (s : State) :
    exec (.adc o) s =
      runRead (.adc o) o s (fun v cpu => cpu.setAlu (adcResult s.cfg cpu.d cpu.a v cpu.c)) (decimalExtra s) := rfl

theorem exec_sbc (o : ReadOperand) (s : State) :
    exec (.sbc o) s =
      runRead (.sbc o) o s (fun v cpu => cpu.setAlu (sbcResult s.cfg cpu.d cpu.a v cpu.c)) (decimalExtra s) := rfl

/-- An adder's result goes to the same fields before and after the fetch's own are set. -/
theorem setAlu_fetched (cpu : CpuState) (i : Instr) (o : AluResult) :
    (cpu.fetched i).setAlu o = { Claims.alu cpu o with
      pc := (cpu.fetched i).pc, ir := (cpu.fetched i).ir, cycles := (cpu.fetched i).cycles } := rfl

/-- Settles O25: ADC and SBC are read-class instructions whose opcode lists agree with the tables, row by row; they
choose their adder, and on CMOS their cycle, by decimal mode. -/
theorem adcAndSbcAddAndSubtract : Obligations.AdcAndSbcAddAndSubtract := by
  intro s
  simp only [← adcResult_eq, ← sbcResult_eq, ← decimalExtra_eq]
  refine ⟨fetchFaults_of_state s,
    readForms_of_formTable ?adc (exec_adc · s) fun o _ => setAlu_fetched s.cpu (.adc o) _,
    readForms_of_formTable ?sbc (exec_sbc · s) fun o _ => setAlu_fetched s.cpu (.sbc o) _⟩
  -- The lists are closed, so a field of the table is one evaluation of the encoder or of the map.
  case adc | sbc => exact ⟨fun _ => rfl, fun _ => rfl, fun _ _ => rfl, rfl, rfl, rfl, rfl⟩

end Sys2Proof.Machine
end

section
/-! Increments and decrements (44_incdec.md), INC and DEC from what holds of every read-modify-write instruction (R141,
R143): the next state on the accumulator or on a memory byte, the stored bytes it leaves, and its faults. -/

namespace Sys2Proof

/-! ## The operand of a shift, a rotate, INC or DEC -/

theorem memMode_kind_ne_acc (m : MemMode) : m.kind ≠ .acc := by
  cases m <;> exact nofun

def rmwShape : OperandShape RmwOperand where
  kind := RmwOperand.kind
  bytes := RmwOperand.operandBytes
  assemble := rmwOperandOf
  length_kind
    | .acc => rfl
    | .mem m => memMode_length_kind m
  assemble_bytes
    | .acc => rfl
    | .mem m => (if_neg (memMode_kind_ne_acc m)).trans (congrArg RmwOperand.mem (memModeOf_operandBytes m))

/-- The accumulator forms of both maps, cell by cell (R399). -/
theorem cellOf_acc_baseCycles : ∀ op : Byte,
    ((cellOf nmosMap op).mode = .acc → (cellOf nmosMap op).baseCycles = 2) ∧
      ((cellOf cmosMap op).mode = .acc → (cellOf cmosMap op).baseCycles = 2) := by
  decide

/-- Where a descriptor comes from: a map, or an optional cell (R122, R123). -/
theorem descOf_cases (cfg : Config) (op : Byte) :
    descOf cfg op = cellOf nmosMap op ∨ descOf cfg op = cellOf cmosMap op ∨
      descOf cfg op = bitOpCell op ∨ descOf cfg op = waiStpCell op := by
  unfold descOf
  split
  · exact .inl rfl
  · split
    · exact .inr (.inr (.inl rfl))
    · split
      · exact .inr (.inr (.inr rfl))
      · exact .inr (.inl rfl)

theorem bitOpCell_mode_ne_acc (op : Byte) : (bitOpCell op).mode ≠ .acc := by
  unfold bitOpCell
  split <;> exact nofun

/-- An accumulator form takes 2 cycles in every configuration, as no optional cell is one. -/
theorem descOf_acc_baseCycles {cfg : Config} {op : Byte} (h : (descOf cfg op).mode = .acc) :
    (descOf cfg op).baseCycles = 2 := by
  obtain ⟨hnmos, hcmos⟩ := cellOf_acc_baseCycles op
  obtain hd | hd | hd | hd := descOf_cases cfg op <;> rw [hd] at h ⊢
  · exact hnmos h
  · exact hcmos h
  · exact absurd h (bitOpCell_mode_ne_acc op)
  · exact nomatch h

namespace Machine

/-! ## Read-modify-write instructions -/

/-- A read-modify-write instruction on a memory byte that writes `w` of the byte read and whose effect on the registers
is `c` of it, but for what the fetch sets. -/
theorem modifies_of_runModify {s : State} {i : Instr} {m : MemMode} {op : Byte} {w : Byte → Byte}
    {c : Byte → CpuState} {f : Byte → CpuState → Byte} {g : Byte → CpuState → CpuState}
    (hcoded : Claims.coded s.cfg i (op :: m.operandBytes)) (hop : i.opcode? = some op)
    (hbytes : i.operandBytes = m.operandBytes) (hexec : exec i s = runModify i m s f g)
    (hw : ∀ v, f v (s.cpu.fetched i) = w v)
    (hcpu : ∀ v, g v (s.cpu.fetched i) = { c v with
      pc := (s.cpu.fetched i).pc, ir := (s.cpu.fetched i).ir, cycles := (s.cpu.fetched i).cycles }) :
    Claims.modifies s i m op w c := by
  have hstore := resolve_sameStore s.cfg s.cpu m s.bus
  refine ⟨hcoded, ?resolved, ?unresolved⟩ <;> rw [hexec]
  case resolved =>
    intro r b hr
    rw [hr] at hstore
    have hread := sameStore_trans hstore (memRead_sameStore r.ea b)
    constructor
    · intro v b1 hv
      rw [hv] at hread
      rw [← hw v]
      constructor
      · intro b2 hwrite
        refine ⟨?next, ?others, ?written⟩
        case next =>
          rw [runModify_ok hr hv hwrite, completed_eq_after hop (hcpu v), Instr.length, hbytes]
          rfl
        case others =>
          exact fun addr ha => (sameBytesBut_of_busWrite hwrite addr ha).trans (peek_sameStore hread addr)
        case written => exact fun hwritable hm => peek_of_memWrite hwrite hwritable (hread.2 ▸ hm)
      · intro fault b2 hwrite
        have hsame := peek_sameStore (sameStore_trans hread (memWrite_raised_sameStore hwrite))
        exact ⟨runModify_raised hr hv hwrite, ⟨r.ea, List.mem_singleton_self _, memWrite_raised hwrite⟩, hsame⟩
    · intro fault b1 hv
      rw [hv] at hread
      exact ⟨runModify_unread hr hv, ⟨r.ea, memRead_raised hv⟩, peek_sameStore hread⟩
  case unresolved =>
    intro fault b hr
    rw [hr] at hstore
    exact ⟨runModify_unresolved hr, resolve_raised hr, peek_sameStore hstore⟩

theorem runRmw_acc (i : Instr) (s : State) (f : Byte → CpuState → Byte) (g : Byte → CpuState → CpuState) :
    runRmw i .acc s f g = runRegister i s fun cpu => { g cpu.a cpu with a := f cpu.a cpu } := rfl

theorem runRmw_mem (i : Instr) (m : MemMode) (s : State) (f : Byte → CpuState → Byte)
    (g : Byte → CpuState → CpuState) : runRmw i (.mem m) s f g = runModify i m s f g := rfl

/-- All the forms of a mnemonic on the accumulator or a memory byte, from its opcode lists, the byte it writes and its
effect. -/
theorem modifyForms_of_formTable {s : State} {build : RmwOperand → Instr} {both cmosOnly : List (ModeKind × Byte)}
    {w : Byte → Byte} {c : Byte → CpuState} {f : Byte → CpuState → Byte} {g : Byte → CpuState → CpuState}
    (ht : FormTable rmwShape build both cmosOnly) (hexec : ∀ o, exec (build o) s = runRmw (build o) o s f g)
    (hw : ∀ o v, f v (s.cpu.fetched (build o)) = w v)
    (hcpu : ∀ o v, g v (s.cpu.fetched (build o)) = { c v with
      pc := (s.cpu.fetched (build o)).pc, ir := (s.cpu.fetched (build o)).ir,
      cycles := (s.cpu.fetched (build o)).cycles }) :
    Claims.modifyForms s build both cmosOnly w c := by
  have hop (o) {op} (h : Claims.opcodeOf s.cfg both cmosOnly (rmwShape.kind o) = some op) :
      (build o).opcode? = some op := (ht.opcode o).trans (lookup_of_opcodeOf h)
  refine ⟨ht.wellFormed_eq s.cfg, ht.illegalOnNmos s.cfg, ?acc, ?mem⟩
  case acc =>
    intro op h
    have hmode : (descOf s.cfg op).mode = .acc := congrArg Prod.fst (ht.form_of_opcodeOf h)
    have hcost : (build .acc).baseCycles s.cfg = 2 :=
      (baseCycles_of_opcode (hop .acc h) s.cfg).trans (descOf_acc_baseCycles hmode)
    exact registers_of_runRegister (ht.coded (o := .acc) h) (hop .acc h) (ht.operandBytes .acc) hcost
      ((hexec .acc).trans (runRmw_acc ..)) (by simp only [fetched_a, hw, hcpu])
  case mem =>
    intro m op h
    exact modifies_of_runModify (ht.coded (o := .mem m) h) (hop (.mem m) h) (ht.operandBytes (.mem m))
      ((hexec (.mem m)).trans (runRmw_mem ..)) (hw (.mem m)) (hcpu (.mem m))

/-! ## The instructions of 44_incdec.md -/

theorem exec_inc (o : RmwOperand) (s : State) :
    exec (.inc o) s = runRmw (.inc o) o s (fun v _ => v + 1#8) fun v cpu => cpu.setNZ (v + 1#8) := rfl

theorem exec_dec (o : RmwOperand) (s : State) :
    exec (.dec o) s = runRmw (.dec o) o s (fun v _ => v - 1#8) fun v cpu => cpu.setNZ (v - 1#8) := rfl

theorem exec_inx (s : State) :
    exec .inx s = runRegister .inx s fun cpu => { cpu.setNZ (cpu.x + 1#8) with x := cpu.x + 1#8 } := rfl

theorem exec_iny (s : State) :
    exec .iny s = runRegister .iny s fun cpu => { cpu.setNZ (cpu.y + 1#8) with y := cpu.y + 1#8 } := rfl

theorem exec_dex (s : State) :
    exec .dex s = runRegister .dex s fun cpu => { cpu.setNZ (cpu.x - 1#8) with x := cpu.x - 1#8 } := rfl

theorem exec_dey (s : State) :
    exec .dey s = runRegister .dey s fun cpu => { cpu.setNZ (cpu.y - 1#8) with y := cpu.y - 1#8 } := rfl

theorem byte_add_one_eq_ofNat (v : Byte) : v + 1#8 = BitVec.ofNat 8 (v.toNat + 1) :=
  BitVec.eq_of_toNat_eq (by rw [BitVec.toNat_add, BitVec.toNat_ofNat]; rfl)

theorem byte_sub_one_eq_ofNat (v : Byte) : v - 1#8 = BitVec.ofNat 8 (v.toNat + 255) :=
  BitVec.eq_of_toNat_eq (by rw [BitVec.toNat_sub, BitVec.toNat_ofNat, Nat.add_comm]; rfl)

/-- N and Z go to the same fields before and after the fetch's own are set. -/
theorem setNZ_fetched (cpu : CpuState) (i : Instr) (v : Byte) :
    (cpu.fetched i).setNZ v = { Claims.nz cpu v with
      pc := (cpu.fetched i).pc, ir := (cpu.fetched i).ir, cycles := (cpu.fetched i).cycles } := rfl

/-- Settles O26: INC and DEC are read-modify-write instructions whose opcode lists agree with the tables, row by row;
plus or minus one mod 256 is the result as a number cut to 8 bits. -/
theorem incAndDecChangeMemoryOrA : Obligations.IncAndDecChangeMemoryOrA := by
  intro s
  simp only [← byte_add_one_eq_ofNat, ← byte_sub_one_eq_ofNat]
  refine ⟨fetchFaults_of_state s,
    modifyForms_of_formTable ?inc (exec_inc · s) (fun _ _ => rfl) fun o _ => setNZ_fetched s.cpu (.inc o) _,
    modifyForms_of_formTable ?dec (exec_dec · s) (fun _ _ => rfl) fun o _ => setNZ_fetched s.cpu (.dec o) _⟩
  -- The lists are closed, so a field of the table is one evaluation of the encoder or of the map.
  case inc | dec => exact ⟨fun _ => rfl, fun _ => rfl, fun _ _ => rfl, rfl, rfl, rfl, rfl⟩

/-- Settles O27: each of the four is a register instruction of one row in every configuration; it counts a register that
the fetch left alone, and N and Z follow from the result. -/
theorem indexRegistersCountUpAndDown : Obligations.IndexRegistersCountUpAndDown := by
  intro s
  refine ⟨fetchFaults_of_state s,
    registers_of_impliedRow ?inx (exec_inx s) rfl, registers_of_impliedRow ?iny (exec_iny s) rfl,
    registers_of_impliedRow ?dex (exec_dex s) rfl, registers_of_impliedRow ?dey (exec_dey s) rfl⟩
  -- Opcode and maps are closed, so a field of the row is one lookup.
  case inx | iny | dex | dey => exact ⟨rfl, rfl, rfl, rfl, rfl⟩

end Machine

end Sys2Proof
end

section
/-! Shifts and rotates (45_shift_rotate.md R220 to R223), from what holds of every read-modify-write instruction: each
result as a number cut to 8 bits, and N of the two that move bits to the right. -/

namespace Sys2Proof.Machine

/-! ## The shifted byte as a number -/

theorem carryByte_toNat (c : Bool) : (BitVec.setWidth 8 (BitVec.ofBool c)).toNat = c.toNat := by
  cases c <;> rfl

theorem byte_shiftLeft_one_toNat (m : Byte) : (m <<< 1).toNat = m.toNat * 2 % 256 := by
  rw [BitVec.toNat_shiftLeft, Nat.shiftLeft_eq]

theorem byte_ushiftRight_one_toNat (m : Byte) : (m >>> 1).toNat = m.toNat / 2 := by
  rw [BitVec.toNat_ushiftRight, Nat.shiftRight_eq_div_pow]

theorem shiftAsl_r_eq (m : Byte) : (shiftAsl m).r = BitVec.ofNat 8 (m.toNat * 2) :=
  BitVec.eq_of_toNat_eq (by rw [shiftAsl, byte_shiftLeft_one_toNat, BitVec.toNat_ofNat])

theorem shiftLsr_r_toNat (m : Byte) : (shiftLsr m).r.toNat = m.toNat / 2 := byte_ushiftRight_one_toNat m

theorem shiftLsr_r_eq (m : Byte) : (shiftLsr m).r = BitVec.ofNat 8 (m.toNat / 2) := by
  rw [← shiftLsr_r_toNat, BitVec.ofNat_toNat, BitVec.setWidth_eq]

/-- The carry comes in at bit 0, which the shift to the left has cleared. -/
theorem shiftRol_r_eq (m : Byte) (c : Bool) : (shiftRol m c).r = BitVec.ofNat 8 (m.toNat * 2 + c.toNat) := by
  have hor : 2 ^ 1 * (m.toNat % 128) + c.toNat = 2 ^ 1 * (m.toNat % 128) ||| c.toNat :=
    Nat.two_pow_add_eq_or_of_lt c.toNat_lt _
  have heven : m.toNat * 2 % 256 = 2 ^ 1 * (m.toNat % 128) := by omega
  apply BitVec.eq_of_toNat_eq
  rw [shiftRol, BitVec.toNat_or, byte_shiftLeft_one_toNat, carryByte_toNat, heven, ← hor, BitVec.toNat_ofNat]
  have hc := c.toNat_lt
  omega

/-- The carry comes in at bit 7, which the shift to the right has cleared. -/
theorem shiftRor_r_toNat (m : Byte) (c : Bool) : (shiftRor m c).r.toNat = m.toNat / 2 + c.toNat * 128 := by
  have hm : m.toNat < 256 := m.isLt
  have hc := c.toNat_lt
  have hor : 2 ^ 7 * c.toNat + m.toNat / 2 = 2 ^ 7 * c.toNat ||| m.toNat / 2 :=
    Nat.two_pow_add_eq_or_of_lt (by omega) _
  have hcarry : c.toNat * 2 ^ 7 % 2 ^ 8 = 2 ^ 7 * c.toNat := by omega
  rw [shiftRor, BitVec.toNat_or, byte_ushiftRight_one_toNat, BitVec.toNat_shiftLeft, carryByte_toNat,
    Nat.shiftLeft_eq, hcarry, Nat.or_comm, ← hor]
  omega

theorem shiftRor_r_eq (m : Byte) (c : Bool) : (shiftRor m c).r = BitVec.ofNat 8 (m.toNat / 2 + c.toNat * 128) := by
  rw [← shiftRor_r_toNat, BitVec.ofNat_toNat, BitVec.setWidth_eq]

/-! ## N after a move to the right -/

theorem shiftLsr_r_bit7 (m : Byte) : (shiftLsr m).r.getLsbD 7 = false := by
  have hm : m.toNat < 256 := m.isLt
  rw [bit7_eq_decide, shiftLsr_r_toNat, decide_eq_false_iff_not]
  omega

theorem shiftRor_r_bit7 (m : Byte) (c : Bool) : (shiftRor m c).r.getLsbD 7 = c := by
  have hm : m.toNat < 256 := m.isLt
  rw [bit7_eq_decide, shiftRor_r_toNat]
  cases c with
  | false => exact decide_eq_false (by rw [Bool.toNat_false]; omega)
  | true => exact decide_eq_true (by rw [Bool.toNat_true]; omega)

/-! ## The instructions of 45_shift_rotate.md -/

theorem exec_asl (o : RmwOperand) (s : State) :
    exec (.asl o) s = runRmw (.asl o) o s (fun v _ => (shiftAsl v).r) fun v cpu => cpu.setShift (shiftAsl v) := rfl

theorem exec_lsr (o : RmwOperand) (s : State) :
    exec (.lsr o) s = runRmw (.lsr o) o s (fun v _ => (shiftLsr v).r) fun v cpu => cpu.setShift (shiftLsr v) := rfl

theorem exec_rol (o : RmwOperand) (s : State) :
    exec (.rol o) s =
      runRmw (.rol o) o s (fun v cpu => (shiftRol v cpu.c).r) fun v cpu => cpu.setShift (shiftRol v cpu.c) := rfl

theorem exec_ror (o : RmwOperand) (s : State) :
    exec (.ror o) s =
      runRmw (.ror o) o s (fun v cpu => (shiftRor v cpu.c).r) fun v cpu => cpu.setShift (shiftRor v cpu.c) := rfl

/-- N, Z and C go to the same fields before and after the fetch's own are set. -/
theorem setShift_fetched (cpu : CpuState) (i : Instr) {r : ShiftResult} {n : Bool} (hn : r.r.getLsbD 7 = n) :
    (cpu.fetched i).setShift r = { Claims.nz cpu r.r with
      n := n, c := r.c,
      pc := (cpu.fetched i).pc, ir := (cpu.fetched i).ir, cycles := (cpu.fetched i).cycles } := by
  rw [← hn]
  rfl

/-- Settles O28: the four are read-modify-write instructions whose opcode lists agree with the tables, row by row; each
result is a number cut to 8 bits, bit 7 of which is 0 after LSR and the old C after ROR. -/
theorem shiftsAndRotatesByOneBit : Obligations.ShiftsAndRotatesByOneBit := by
  intro s
  simp only [← shiftAsl_r_eq, ← shiftLsr_r_eq, ← shiftRol_r_eq, ← shiftRor_r_eq]
  refine ⟨fetchFaults_of_state s,
    modifyForms_of_formTable ?asl (exec_asl · s) (fun _ _ => rfl) fun o _ => setShift_fetched s.cpu (.asl o) rfl,
    modifyForms_of_formTable ?lsr (exec_lsr · s) (fun _ _ => rfl)
      fun o v => setShift_fetched s.cpu (.lsr o) (shiftLsr_r_bit7 v),
    modifyForms_of_formTable ?rol (exec_rol · s) (fun _ _ => rfl) fun o _ => setShift_fetched s.cpu (.rol o) rfl,
    modifyForms_of_formTable ?ror (exec_ror · s) (fun _ _ => rfl)
      fun o v => setShift_fetched s.cpu (.ror o) (shiftRor_r_bit7 v s.cpu.c)⟩
  -- The lists are closed, so a field of the table is one evaluation of the encoder or of the map.
  case asl | lsr | rol | ror => exact ⟨fun _ => rfl, fun _ => rfl, fun _ _ => rfl, rfl, rfl, rfl, rfl⟩

end Sys2Proof.Machine
end

section
/-! AND, ORA and EOR (46_logical.md R230 to R232), from what holds of every read-class instruction. -/

namespace Sys2Proof.Machine

theorem exec_and (o : ReadOperand) (s : State) :
    exec (.and o) s =
      runRead (.and o) o s fun v cpu => { cpu.setNZ (cpu.a &&& v) with a := cpu.a &&& v } := rfl

theorem exec_ora (o : ReadOperand) (s : State) :
    exec (.ora o) s =
      runRead (.ora o) o s fun v cpu => { cpu.setNZ (cpu.a ||| v) with a := cpu.a ||| v } := rfl

theorem exec_eor (o : ReadOperand) (s : State) :
    exec (.eor o) s =
      runRead (.eor o) o s fun v cpu => { cpu.setNZ (cpu.a ^^^ v) with a := cpu.a ^^^ v } := rfl

/-- A byte and its N and Z go to the same fields before and after the fetch's own are set. -/
theorem setNZ_setA_fetched (cpu : CpuState) (i : Instr) (r : Byte) :
    { (cpu.fetched i).setNZ r with a := r } = { Claims.nz cpu r with
      a := r,
      pc := (cpu.fetched i).pc, ir := (cpu.fetched i).ir, cycles := (cpu.fetched i).cycles } := rfl

/-- Settles O29: the three are read-class instructions whose opcode lists agree with the tables, row by row; each
combines the operand with A, which the fetch left alone, and N and Z follow from the result. -/
theorem logicalInstructionsCombineAWithTheOperand : Obligations.LogicalInstructionsCombineAWithTheOperand := by
  intro s
  refine ⟨fetchFaults_of_state s,
    readForms_of_formTable ?and (exec_and · s) fun o m => setNZ_setA_fetched s.cpu (.and o) (s.cpu.a &&& m),
    readForms_of_formTable ?ora (exec_ora · s) fun o m => setNZ_setA_fetched s.cpu (.ora o) (s.cpu.a ||| m),
    readForms_of_formTable ?eor (exec_eor · s) fun o m => setNZ_setA_fetched s.cpu (.eor o) (s.cpu.a ^^^ m)⟩
  -- The lists are closed, so a field of the table is one evaluation of the encoder or of the map.
  case and | ora | eor => exact ⟨fun _ => rfl, fun _ => rfl, fun _ _ => rfl, rfl, rfl, rfl, rfl⟩

end Sys2Proof.Machine
end

section
/-! The forms of every mnemonic (30_encoding.md section 2, files 41 to 49): its opcode lists against the encoder, the
well-formed terms and the two maps, and the bit instructions by their bit. -/

namespace Sys2Proof

/-! ## Mnemonics with an addressing mode -/

-- The lists are closed, so a field of a table is one evaluation of the encoder or of the map.

theorem lda_forms : FormTable readShape .lda
    [(.imm, 0xA9), (.zp, 0xA5), (.zpx, 0xB5), (.abs, 0xAD), (.absx, 0xBD), (.absy, 0xB9), (.izx, 0xA1), (.izy, 0xB1)]
    [(.zpi, 0xB2)] := ⟨fun _ => rfl, fun _ => rfl, fun _ _ => rfl, rfl, rfl, rfl, rfl⟩

theorem ldx_forms : FormTable readShape .ldx [(.imm, 0xA2), (.zp, 0xA6), (.zpy, 0xB6), (.abs, 0xAE), (.absy, 0xBE)] [] :=
  ⟨fun _ => rfl, fun _ => rfl, fun _ _ => rfl, rfl, rfl, rfl, rfl⟩

theorem ldy_forms : FormTable readShape .ldy [(.imm, 0xA0), (.zp, 0xA4), (.zpx, 0xB4), (.abs, 0xAC), (.absx, 0xBC)] [] :=
  ⟨fun _ => rfl, fun _ => rfl, fun _ _ => rfl, rfl, rfl, rfl, rfl⟩

theorem sta_forms : FormTable memShape .sta
    [(.zp, 0x85), (.zpx, 0x95), (.abs, 0x8D), (.absx, 0x9D), (.absy, 0x99), (.izx, 0x81), (.izy, 0x91)]
    [(.zpi, 0x92)] := ⟨fun _ => rfl, fun _ => rfl, fun _ _ => rfl, rfl, rfl, rfl, rfl⟩

theorem stx_forms : FormTable memShape .stx [(.zp, 0x86), (.zpy, 0x96), (.abs, 0x8E)] [] :=
  ⟨fun _ => rfl, fun _ => rfl, fun _ _ => rfl, rfl, rfl, rfl, rfl⟩

theorem sty_forms : FormTable memShape .sty [(.zp, 0x84), (.zpx, 0x94), (.abs, 0x8C)] [] :=
  ⟨fun _ => rfl, fun _ => rfl, fun _ _ => rfl, rfl, rfl, rfl, rfl⟩

theorem stz_forms : FormTable memShape .stz [] [(.zp, 0x64), (.zpx, 0x74), (.abs, 0x9C), (.absx, 0x9E)] :=
  ⟨fun _ => rfl, fun _ => rfl, fun _ _ => rfl, rfl, rfl, rfl, rfl⟩

theorem adc_forms : FormTable readShape .adc
    [(.imm, 0x69), (.zp, 0x65), (.zpx, 0x75), (.abs, 0x6D), (.absx, 0x7D), (.absy, 0x79), (.izx, 0x61), (.izy, 0x71)]
    [(.zpi, 0x72)] := ⟨fun _ => rfl, fun _ => rfl, fun _ _ => rfl, rfl, rfl, rfl, rfl⟩

theorem sbc_forms : FormTable readShape .sbc
    [(.imm, 0xE9), (.zp, 0xE5), (.zpx, 0xF5), (.abs, 0xED), (.absx, 0xFD), (.absy, 0xF9), (.izx, 0xE1), (.izy, 0xF1)]
    [(.zpi, 0xF2)] := ⟨fun _ => rfl, fun _ => rfl, fun _ _ => rfl, rfl, rfl, rfl, rfl⟩

theorem inc_forms : FormTable rmwShape .inc [(.zp, 0xE6), (.zpx, 0xF6), (.abs, 0xEE), (.absx, 0xFE)] [(.acc, 0x1A)] :=
  ⟨fun _ => rfl, fun _ => rfl, fun _ _ => rfl, rfl, rfl, rfl, rfl⟩

theorem dec_forms : FormTable rmwShape .dec [(.zp, 0xC6), (.zpx, 0xD6), (.abs, 0xCE), (.absx, 0xDE)] [(.acc, 0x3A)] :=
  ⟨fun _ => rfl, fun _ => rfl, fun _ _ => rfl, rfl, rfl, rfl, rfl⟩

theorem asl_forms : FormTable rmwShape .asl [(.acc, 0x0A), (.zp, 0x06), (.zpx, 0x16), (.abs, 0x0E), (.absx, 0x1E)] [] :=
  ⟨fun _ => rfl, fun _ => rfl, fun _ _ => rfl, rfl, rfl, rfl, rfl⟩

theorem lsr_forms : FormTable rmwShape .lsr [(.acc, 0x4A), (.zp, 0x46), (.zpx, 0x56), (.abs, 0x4E), (.absx, 0x5E)] [] :=
  ⟨fun _ => rfl, fun _ => rfl, fun _ _ => rfl, rfl, rfl, rfl, rfl⟩

theorem rol_forms : FormTable rmwShape .rol [(.acc, 0x2A), (.zp, 0x26), (.zpx, 0x36), (.abs, 0x2E), (.absx, 0x3E)] [] :=
  ⟨fun _ => rfl, fun _ => rfl, fun _ _ => rfl, rfl, rfl, rfl, rfl⟩

theorem ror_forms : FormTable rmwShape .ror [(.acc, 0x6A), (.zp, 0x66), (.zpx, 0x76), (.abs, 0x6E), (.absx, 0x7E)] [] :=
  ⟨fun _ => rfl, fun _ => rfl, fun _ _ => rfl, rfl, rfl, rfl, rfl⟩

theorem and_forms : FormTable readShape .and
    [(.imm, 0x29), (.zp, 0x25), (.zpx, 0x35), (.abs, 0x2D), (.absx, 0x3D), (.absy, 0x39), (.izx, 0x21), (.izy, 0x31)]
    [(.zpi, 0x32)] := ⟨fun _ => rfl, fun _ => rfl, fun _ _ => rfl, rfl, rfl, rfl, rfl⟩

theorem ora_forms : FormTable readShape .ora
    [(.imm, 0x09), (.zp, 0x05), (.zpx, 0x15), (.abs, 0x0D), (.absx, 0x1D), (.absy, 0x19), (.izx, 0x01), (.izy, 0x11)]
    [(.zpi, 0x12)] := ⟨fun _ => rfl, fun _ => rfl, fun _ _ => rfl, rfl, rfl, rfl, rfl⟩

theorem eor_forms : FormTable readShape .eor
    [(.imm, 0x49), (.zp, 0x45), (.zpx, 0x55), (.abs, 0x4D), (.absx, 0x5D), (.absy, 0x59), (.izx, 0x41), (.izy, 0x51)]
    [(.zpi, 0x52)] := ⟨fun _ => rfl, fun _ => rfl, fun _ _ => rfl, rfl, rfl, rfl, rfl⟩

theorem cmp_forms : FormTable readShape .cmp
    [(.imm, 0xC9), (.zp, 0xC5), (.zpx, 0xD5), (.abs, 0xCD), (.absx, 0xDD), (.absy, 0xD9), (.izx, 0xC1), (.izy, 0xD1)]
    [(.zpi, 0xD2)] := ⟨fun _ => rfl, fun _ => rfl, fun _ _ => rfl, rfl, rfl, rfl, rfl⟩

theorem cpx_forms : FormTable readShape .cpx [(.imm, 0xE0), (.zp, 0xE4), (.abs, 0xEC)] [] :=
  ⟨fun _ => rfl, fun _ => rfl, fun _ _ => rfl, rfl, rfl, rfl, rfl⟩

theorem cpy_forms : FormTable readShape .cpy [(.imm, 0xC0), (.zp, 0xC4), (.abs, 0xCC)] [] :=
  ⟨fun _ => rfl, fun _ => rfl, fun _ _ => rfl, rfl, rfl, rfl, rfl⟩

theorem bit_forms : FormTable readShape .bit [(.zp, 0x24), (.abs, 0x2C)] [(.imm, 0x89), (.zpx, 0x34), (.absx, 0x3C)] :=
  ⟨fun _ => rfl, fun _ => rfl, fun _ _ => rfl, rfl, rfl, rfl, rfl⟩

theorem tsb_forms : FormTable memShape .tsb [] [(.zp, 0x04), (.abs, 0x0C)] :=
  ⟨fun _ => rfl, fun _ => rfl, fun _ _ => rfl, rfl, rfl, rfl, rfl⟩

theorem trb_forms : FormTable memShape .trb [] [(.zp, 0x14), (.abs, 0x1C)] :=
  ⟨fun _ => rfl, fun _ => rfl, fun _ _ => rfl, rfl, rfl, rfl, rfl⟩

theorem jmp_forms : FormTable memShape .jmp [(.abs, 0x4C), (.ind, 0x6C)] [(.iax, 0x7C)] :=
  ⟨fun _ => rfl, fun _ => rfl, fun _ _ => rfl, rfl, rfl, rfl, rfl⟩

/-- A well-formed instruction of a table is coded. -/
theorem FormTable.exists_coded {α : Type} {shape : OperandShape α} {build : α → Instr}
    {both cmosOnly : List (ModeKind × Byte)} (ht : FormTable shape build both cmosOnly) {cfg : Config} {o : α}
    (h : (build o).wellFormed cfg = true) : ∃ bytes, Claims.coded cfg (build o) bytes := by
  rw [ht.wellFormed_eq, Option.isSome_iff_exists] at h
  obtain ⟨op, hop⟩ := h
  exact ⟨_, ht.coded hop⟩

theorem ImpliedRow.coded {i : Instr} {op : Byte} {cost : Nat} (hrow : ImpliedRow i op cost) (cfg : Config) :
    Claims.coded cfg i [op] :=
  coded_of_form_imp hrow.opcode hrow.operandBytes (congrArg Desc.form (hrow.descOf_eq cfg))

/-! ## Mnemonics of one cell -/

/-- Opcode and operand bytes, in an order that the opcode's own cell takes apart again, are a coding. -/
theorem coded_of_instrOf {cfg : Config} {i : Instr} {op : Byte} {bytes : List Byte} (hop : i.opcode? = some op)
    (hbytes : i.operandBytes = bytes) (hlength : (descOf cfg op).length = 1 + bytes.length)
    (hinstr : instrOf cfg op (bytes.getD 0 0#8) (bytes.getD 1 0#8) = i) : Claims.coded cfg i (op :: bytes) := by
  constructor
  · rw [encode, hop, hbytes, Option.map_some]
  · intro rest
    rw [decode_operandBytes hlength rest, hinstr]

/-- A cell that no configuration changes. -/
structure FixedCell (op : Byte) (d : Desc) : Prop where
  nmos : cellOf nmosMap op = d
  cmos : cellOf cmosMap op = d
  plain : isOptional op = false

theorem FixedCell.descOf_eq {op : Byte} {d : Desc} (hcell : FixedCell op d) (cfg : Config) : descOf cfg op = d := by
  cases hc : cfg.isCmos with
  | false => rw [descOf_nmos hc, hcell.nmos]
  | true => rw [descOf_cmos hc hcell.plain, hcell.cmos]

/-- A relative branch is coded by its opcode and its offset (R156). -/
theorem coded_of_rel {cfg : Config} {c : Byte → Instr} {op : Byte} {cycles : Nat} (hcell : descOf cfg op = Desc.rel c cycles)
    {off : Byte} (hop : (c off).opcode? = some op) (hbytes : (c off).operandBytes = [off]) :
    Claims.coded cfg (c off) [op, off] :=
  coded_of_instrOf hop hbytes (congrArg Desc.length hcell) (by rw [instrOf, hcell]; rfl)

theorem jsr_cell : FixedCell 0x20#8 (Desc.jsr 6) := ⟨rfl, rfl, rfl⟩

theorem brk_cell : FixedCell 0x00#8 (Desc.brk 7) := ⟨rfl, rfl, rfl⟩

theorem jsr_coded (cfg : Config) (w : Addr) : Claims.coded cfg (.jsr w) [0x20#8, lo8 w, hi8 w] :=
  coded_of_instrOf rfl rfl (congrArg Desc.length (jsr_cell.descOf_eq cfg)) (by
    rw [instrOf, jsr_cell.descOf_eq]
    exact congrArg Instr.jsr (word_hi_lo w))

theorem brk_coded (cfg : Config) (pad : Byte) : Claims.coded cfg (.brk pad) [0x00#8, pad] :=
  coded_of_instrOf rfl rfl (congrArg Desc.length (brk_cell.descOf_eq cfg)) (by rw [instrOf, brk_cell.descOf_eq]; rfl)

/-! ## The optional instructions (R122, R123) -/

theorem hasBitOps_iff {cfg : Config} : cfg.hasBitOps = true ↔ cfg.isCmos = true ∧ cfg.cmosBitOps = true :=
  Bool.and_eq_true_iff

theorem hasWaiStp_iff {cfg : Config} : cfg.hasWaiStp = true ↔ cfg.isCmos = true ∧ cfg.cmosWaiStp = true :=
  Bool.and_eq_true_iff

theorem descOf_bitOp {cfg : Config} (h : cfg.hasBitOps = true) {op : Byte}
    (hop : op.toNat % 16 = 0x7 ∨ op.toNat % 16 = 0xF) : descOf cfg op = bitOpCell op := by
  obtain ⟨hc, hb⟩ := hasBitOps_iff.mp h
  simp [descOf, hc, hb, hop]

theorem bitOpCell_baseCycles (op : Byte) : (bitOpCell op).baseCycles = 5 := by
  unfold bitOpCell
  split <;> rfl

theorem bitOpCell_pagePenalty (op : Byte) : (bitOpCell op).pagePenalty = false := by
  unfold bitOpCell
  split <;> rfl

theorem descOf_waiStp {cfg : Config} (h : cfg.hasWaiStp = true) {op : Byte} (hop : op = 0xCB#8 ∨ op = 0xDB#8) :
    descOf cfg op = waiStpCell op := by
  obtain ⟨hc, hw⟩ := hasWaiStp_iff.mp h
  rcases hop with rfl | rfl <;> simp [descOf, hc, hw]

/-- The opcodes of RMBb, SMBb, BBRb and BBSb by their bit (R122). -/
def rmbOpcode (b : Fin 8) : Byte := BitVec.ofNat 8 (0x07 + 0x10 * b.val)
def smbOpcode (b : Fin 8) : Byte := BitVec.ofNat 8 (0x87 + 0x10 * b.val)
def bbrOpcode (b : Fin 8) : Byte := BitVec.ofNat 8 (0x0F + 0x10 * b.val)
def bbsOpcode (b : Fin 8) : Byte := BitVec.ofNat 8 (0x8F + 0x10 * b.val)

theorem rmbOpcode_low (b : Fin 8) : (rmbOpcode b).toNat % 16 = 0x7 := by revert b; decide
theorem smbOpcode_low (b : Fin 8) : (smbOpcode b).toNat % 16 = 0x7 := by revert b; decide
theorem bbrOpcode_low (b : Fin 8) : (bbrOpcode b).toNat % 16 = 0xF := by revert b; decide
theorem bbsOpcode_low (b : Fin 8) : (bbsOpcode b).toNat % 16 = 0xF := by revert b; decide

/-- One bit instruction in one row: its encoding, and its optional cell. -/
structure BitRow (i : Instr) (op : Byte) (mode : ModeKind) (bytes : List Byte) : Prop where
  opcode : i.opcode? = some op
  operandBytes : i.operandBytes = bytes
  mode_eq : (bitOpCell op).mode = mode
  build : (bitOpCell op).build op (bytes.getD 0 0#8) (bytes.getD 1 0#8) = i

theorem rmb_row (b : Fin 8) (zp : Byte) : BitRow (Instr.rmb b zp) (rmbOpcode b) .zp [zp] := by
  match b with
  | 0 | 1 | 2 | 3 | 4 | 5 | 6 | 7 => exact ⟨rfl, rfl, rfl, rfl⟩

theorem smb_row (b : Fin 8) (zp : Byte) : BitRow (Instr.smb b zp) (smbOpcode b) .zp [zp] := by
  match b with
  | 0 | 1 | 2 | 3 | 4 | 5 | 6 | 7 => exact ⟨rfl, rfl, rfl, rfl⟩

theorem bbr_row (b : Fin 8) (zp off : Byte) : BitRow (Instr.bbr b zp off) (bbrOpcode b) .zprel [zp, off] := by
  match b with
  | 0 | 1 | 2 | 3 | 4 | 5 | 6 | 7 => exact ⟨rfl, rfl, rfl, rfl⟩

theorem bbs_row (b : Fin 8) (zp off : Byte) : BitRow (Instr.bbs b zp off) (bbsOpcode b) .zprel [zp, off] := by
  match b with
  | 0 | 1 | 2 | 3 | 4 | 5 | 6 | 7 => exact ⟨rfl, rfl, rfl, rfl⟩

/-- With CMOS_BIT_OPS a bit instruction is coded as its row says. -/
theorem BitRow.coded {i : Instr} {op : Byte} {mode : ModeKind} {bytes : List Byte} (hrow : BitRow i op mode bytes)
    (hmode : mode.length = 1 + bytes.length) (hop : op.toNat % 16 = 0x7 ∨ op.toNat % 16 = 0xF) {cfg : Config}
    (h : cfg.hasBitOps = true) : Claims.coded cfg i (op :: bytes) := by
  have hcell := descOf_bitOp h hop
  refine coded_of_instrOf hrow.opcode hrow.operandBytes ?_ ?_
  · rw [hcell, Desc.length, hrow.mode_eq, hmode]
  · rw [instrOf, hcell, hrow.build]

theorem rmb_coded {cfg : Config} (h : cfg.hasBitOps = true) (b : Fin 8) (zp : Byte) :
    Claims.coded cfg (Instr.rmb b zp) [rmbOpcode b, zp] := (rmb_row b zp).coded rfl (.inl (rmbOpcode_low b)) h

theorem smb_coded {cfg : Config} (h : cfg.hasBitOps = true) (b : Fin 8) (zp : Byte) :
    Claims.coded cfg (Instr.smb b zp) [smbOpcode b, zp] := (smb_row b zp).coded rfl (.inl (smbOpcode_low b)) h

theorem bbr_coded {cfg : Config} (h : cfg.hasBitOps = true) (b : Fin 8) (zp off : Byte) :
    Claims.coded cfg (Instr.bbr b zp off) [bbrOpcode b, zp, off] :=
  (bbr_row b zp off).coded rfl (.inr (bbrOpcode_low b)) h

theorem bbs_coded {cfg : Config} (h : cfg.hasBitOps = true) (b : Fin 8) (zp off : Byte) :
    Claims.coded cfg (Instr.bbs b zp off) [bbsOpcode b, zp, off] :=
  (bbs_row b zp off).coded rfl (.inr (bbsOpcode_low b)) h

theorem wai_coded {cfg : Config} (h : cfg.hasWaiStp = true) : Claims.coded cfg .wai [0xCB#8] :=
  coded_of_form_imp rfl rfl (congrArg Desc.form (descOf_waiStp h (.inl rfl)))

theorem stp_coded {cfg : Config} (h : cfg.hasWaiStp = true) : Claims.coded cfg .stp [0xDB#8] :=
  coded_of_form_imp rfl rfl (congrArg Desc.form (descOf_waiStp h (.inr rfl)))

/-! ## The undefined opcodes (R120, R121) -/

theorem cellOf_nmosIllegal {op : Byte} (h : op ∈ nmosIllegal) : cellOf nmosMap op = Desc.ill := by
  have hcells : nmosIllegal.map (cellOf nmosMap) = nmosIllegal.map fun _ => Desc.ill := rfl
  exact List.map_inj_left.mp hcells op h

theorem descOf_nmosIllegal {cfg : Config} (hc : cfg.isCmos = false) {op : Byte} (h : op ∈ nmosIllegal) :
    descOf cfg op = Desc.ill := (descOf_nmos hc op).trans (cellOf_nmosIllegal h)

theorem illegal_coded {cfg : Config} (hc : cfg.isCmos = false) {op : Byte} (h : op ∈ nmosIllegal) :
    Claims.coded cfg (.illegal op) [op] := by
  have hcell := descOf_nmosIllegal hc h
  exact coded_of_instrOf rfl rfl (congrArg Desc.length hcell) (by rw [instrOf, hcell]; rfl)

theorem illegalOnNmos_of_subset {cfg : Config} {ops : List Byte} (h : ∀ op ∈ ops, op ∈ nmosIllegal) :
    Claims.illegalOnNmos cfg ops :=
  fun hc op hop => (illegal_coded hc (h op hop)).2

/-- The cell of an undefined opcode, by the length that its list gives it. -/
def Desc.nopForm (d : Desc) : Nat × (Byte → Byte → Byte → Instr) := (d.length, d.build)

theorem cellOf_cmosNop2 {op : Byte} (h : op ∈ cmosNop2) :
    (cellOf cmosMap op).nopForm = (2, fun op op1 _ => .nopStar op (.two op1)) := by
  have hcells : cmosNop2.map (fun op => (cellOf cmosMap op).nopForm) =
      cmosNop2.map fun _ => (2, fun op op1 _ => .nopStar op (.two op1)) := rfl
  exact List.map_inj_left.mp hcells op h

theorem cellOf_cmosNop3 {op : Byte} (h : op ∈ cmosNop3) :
    (cellOf cmosMap op).nopForm = (3, fun op op1 op2 => .nopStar op (.three op1 op2)) := by
  have hcells : cmosNop3.map (fun op => (cellOf cmosMap op).nopForm) =
      cmosNop3.map fun _ => (3, fun op op1 op2 => .nopStar op (.three op1 op2)) := rfl
  exact List.map_inj_left.mp hcells op h

/-- Columns x3, x7, xB and xF of R118. -/
def nop1Columns : List Byte :=
  (List.range 16).flatMap fun row => [0x3, 0x7, 0xB, 0xF].map fun column => BitVec.ofNat 8 (16 * row + column)

theorem mem_nop1Columns : ∀ op : Byte,
    (op.toNat % 16 = 0x3 ∨ op.toNat % 16 = 0x7 ∨ op.toNat % 16 = 0xB ∨ op.toNat % 16 = 0xF) → op ∈ nop1Columns := by
  decide

theorem cellOf_nop1Columns {op : Byte} (h : op ∈ nop1Columns) : cellOf cmosMap op = Desc.nop .imp 1 := by
  have hcells : nop1Columns.map (cellOf cmosMap) = nop1Columns.map fun _ => Desc.nop .imp 1 := rfl
  exact List.map_inj_left.mp hcells op h

/-- A one-byte undefined opcode of CMOS, as the parameters leave it (R121). -/
theorem isNop1_iff {cfg : Config} {op : Byte} : cfg.isNop1 op = true ↔
    op.toNat % 16 = 0x3 ∨
      (op.toNat % 16 = 0xB ∧ ¬ (cfg.cmosWaiStp = true ∧ (op = 0xCB#8 ∨ op = 0xDB#8))) ∨
      ((op.toNat % 16 = 0x7 ∨ op.toNat % 16 = 0xF) ∧ cfg.cmosBitOps = false) := by
  have hCB : op = 0xCB#8 → op.toNat % 16 = 0xB := by rintro rfl; rfl
  have hDB : op = 0xDB#8 → op.toNat % 16 = 0xB := by rintro rfl; rfl
  simp only [Config.isNop1, Bool.and_eq_true, Bool.or_eq_true, Bool.not_eq_true', beq_iff_eq, Bool.and_eq_false_iff,
    Bool.or_eq_false_iff, beq_eq_false_iff_ne]
  grind

theorem descOf_isNop1 {cfg : Config} (hc : cfg.isCmos = true) {op : Byte} (h : cfg.isNop1 op = true) :
    descOf cfg op = Desc.nop .imp 1 := by
  have hnop := isNop1_iff.mp h
  have hcell : descOf cfg op = cellOf cmosMap op := by
    have hCB : op = 0xCB#8 → op.toNat % 16 = 0xB := by rintro rfl; rfl
    have hDB : op = 0xDB#8 → op.toNat % 16 = 0xB := by rintro rfl; rfl
    simp only [descOf, hc]
    grind
  rw [hcell, cellOf_nop1Columns (mem_nop1Columns op (by omega))]

end Sys2Proof
end

section
/-! Decoding and encoding as inverses of each other (30_encoding.md), and the cycle columns of the maps (R160, R399): every
well-formed instruction is coded, and every cell of the decoder builds well-formed instructions of its opcode that cost
what the tables say. -/

namespace Sys2Proof

/-! ## Every well-formed instruction is coded -/

theorem illegal_wellFormed_iff {cfg : Config} {op : Byte} :
    (Instr.illegal op).wellFormed cfg = true ↔ cfg.isCmos = false ∧ op ∈ nmosIllegal := by
  simp only [Instr.wellFormed, Bool.and_eq_true, Bool.not_eq_true', List.contains_iff_mem]

theorem nopOne_coded {cfg : Config} (hc : cfg.isCmos = true) {op : Byte} (h : cfg.isNop1 op = true) :
    Claims.coded cfg (.nopStar op .one) [op] := by
  have hcell := descOf_isNop1 hc h
  exact coded_of_instrOf rfl rfl (congrArg Desc.length hcell) (by rw [instrOf, hcell]; rfl)

/-- No list of undefined opcodes has one that an optional parameter changes (R121 to R123). -/
theorem cmosNop_not_optional : ∀ op ∈ cmosNop2 ++ cmosNop3, isOptional op = false := by decide

theorem nopTwo_coded {cfg : Config} (hc : cfg.isCmos = true) {op : Byte} (h : op ∈ cmosNop2) (b1 : Byte) :
    Claims.coded cfg (.nopStar op (.two b1)) [op, b1] := by
  have hcell : (descOf cfg op).nopForm = _ :=
    (congrArg Desc.nopForm (descOf_cmos hc (cmosNop_not_optional op (List.mem_append_left _ h)))).trans
      (cellOf_cmosNop2 h)
  exact coded_of_instrOf rfl rfl (congrArg Prod.fst hcell) (congrArg (fun form => form.2 op b1 0#8) hcell)

theorem nopThree_coded {cfg : Config} (hc : cfg.isCmos = true) {op : Byte} (h : op ∈ cmosNop3) (b1 b2 : Byte) :
    Claims.coded cfg (.nopStar op (.three b1 b2)) [op, b1, b2] := by
  have hcell : (descOf cfg op).nopForm = _ :=
    (congrArg Desc.nopForm (descOf_cmos hc (cmosNop_not_optional op (List.mem_append_right _ h)))).trans
      (cellOf_cmosNop3 h)
  exact coded_of_instrOf rfl rfl (congrArg Prod.fst hcell) (congrArg (fun form => form.2 op b1 b2) hcell)

theorem nopStar_coded {cfg : Config} {op : Byte} {shape : NopShape} (h : (Instr.nopStar op shape).wellFormed cfg = true) :
    Claims.coded cfg (.nopStar op shape) (op :: shape.operandBytes) := by
  cases shape with
  | one =>
    obtain ⟨hc, hop⟩ := Bool.and_eq_true_iff.mp h
    exact nopOne_coded hc hop
  | two b1 =>
    obtain ⟨hc, hop⟩ := Bool.and_eq_true_iff.mp h
    exact nopTwo_coded hc (List.contains_iff_mem.mp hop) b1
  | three b1 b2 =>
    obtain ⟨hc, hop⟩ := Bool.and_eq_true_iff.mp h
    exact nopThree_coded hc (List.contains_iff_mem.mp hop) b1 b2

theorem exists_coded {cfg : Config} {i : Instr} (h : i.wellFormed cfg = true) : ∃ bytes, Claims.coded cfg i bytes := by
  cases i with
  | lda o => exact lda_forms.exists_coded h
  | ldx o => exact ldx_forms.exists_coded h
  | ldy o => exact ldy_forms.exists_coded h
  | adc o => exact adc_forms.exists_coded h
  | sbc o => exact sbc_forms.exists_coded h
  | and o => exact and_forms.exists_coded h
  | ora o => exact ora_forms.exists_coded h
  | eor o => exact eor_forms.exists_coded h
  | cmp o => exact cmp_forms.exists_coded h
  | cpx o => exact cpx_forms.exists_coded h
  | cpy o => exact cpy_forms.exists_coded h
  | bit o => exact bit_forms.exists_coded h
  | sta m => exact sta_forms.exists_coded h
  | stx m => exact stx_forms.exists_coded h
  | sty m => exact sty_forms.exists_coded h
  | stz m => exact stz_forms.exists_coded h
  | tsb m => exact tsb_forms.exists_coded h
  | trb m => exact trb_forms.exists_coded h
  | jmp m => exact jmp_forms.exists_coded h
  | inc o => exact inc_forms.exists_coded h
  | dec o => exact dec_forms.exists_coded h
  | asl o => exact asl_forms.exists_coded h
  | lsr o => exact lsr_forms.exists_coded h
  | rol o => exact rol_forms.exists_coded h
  | ror o => exact ror_forms.exists_coded h
  | tax | tay | txa | tya | tsx | txs | inx | iny | dex | dey | clc | sec | cli | sei | clv | cld | sed | nop
  | pha | php | pla | plp | rts | rti => exact ⟨_, ImpliedRow.coded ⟨rfl, rfl, rfl, rfl, rfl⟩ cfg⟩
  | phx | phy | plx | ply => exact ⟨_, coded_of_form_imp rfl rfl (congrArg Desc.form (descOf_cmos h rfl))⟩
  | bpl _ | bmi _ | bvc _ | bvs _ | bcc _ | bcs _ | bne _ | beq _ =>
    exact ⟨_, coded_of_rel (FixedCell.descOf_eq ⟨rfl, rfl, rfl⟩ cfg) rfl rfl⟩
  | bra _ => exact ⟨_, coded_of_rel (descOf_cmos h rfl) rfl rfl⟩
  | jsr w => exact ⟨_, jsr_coded cfg w⟩
  | brk pad => exact ⟨_, brk_coded cfg pad⟩
  | rmb0 _ | rmb1 _ | rmb2 _ | rmb3 _ | rmb4 _ | rmb5 _ | rmb6 _ | rmb7 _
  | smb0 _ | smb1 _ | smb2 _ | smb3 _ | smb4 _ | smb5 _ | smb6 _ | smb7 _ =>
    exact ⟨_, BitRow.coded ⟨rfl, rfl, rfl, rfl⟩ rfl (.inl rfl) h⟩
  | bbr0 _ _ | bbr1 _ _ | bbr2 _ _ | bbr3 _ _ | bbr4 _ _ | bbr5 _ _ | bbr6 _ _ | bbr7 _ _
  | bbs0 _ _ | bbs1 _ _ | bbs2 _ _ | bbs3 _ _ | bbs4 _ _ | bbs5 _ _ | bbs6 _ _ | bbs7 _ _ =>
    exact ⟨_, BitRow.coded ⟨rfl, rfl, rfl, rfl⟩ rfl (.inr rfl) h⟩
  | wai => exact ⟨_, wai_coded h⟩
  | stp => exact ⟨_, stp_coded h⟩
  | illegal op =>
    obtain ⟨hc, hop⟩ := illegal_wellFormed_iff.mp h
    exact ⟨_, illegal_coded hc hop⟩
  | nopStar op shape => exact ⟨_, nopStar_coded h⟩

theorem length_of_encode {i : Instr} {bytes : List Byte} (h : encode i = some bytes) : bytes.length = i.length := by
  obtain ⟨op, -, rfl⟩ := Option.map_eq_some_iff.mp h
  rw [List.length_cons, Instr.length, Nat.add_comm]

/-- Settles O2: every constructor has its coding from its table, its row or its cell. -/
theorem decodeOfEncode : Obligations.DecodeOfEncode := by
  intro cfg i h
  obtain ⟨bytes, hcoded⟩ := exists_coded h
  exact ⟨bytes, hcoded, length_of_encode hcoded.1⟩

/-! ## What a cell builds -/

/-- The operand bytes that a mode's operand has, assembled from two bytes. -/
def ModeKind.operandBytes (k : ModeKind) (op1 op2 : Byte) : List Byte :=
  match k with
  | .imp | .acc => []
  | .imm | .zp | .zpx | .zpy | .izx | .izy | .zpi | .rel | .brk => [op1]
  | .abs | .absx | .absy | .ind | .iax => [lo8 (word op2 op1), hi8 (word op2 op1)]
  | .zprel => [op1, op2]

theorem modeKind_operandBytes_eq_take (k : ModeKind) (op1 op2 : Byte) :
    k.operandBytes op1 op2 = [op1, op2].take (k.length - 1) := by
  cases k <;> simp [ModeKind.operandBytes, ModeKind.length]

/-- What the tables ask of the cell of an opcode: it builds a well-formed instruction of that opcode with the operand bytes
of its mode, and its two cycle columns are those of R399 and R160. -/
structure Desc.Agrees (cfg : Config) (op : Byte) (d : Desc) : Prop where
  wellFormed : ∀ op1 op2, (d.build op op1 op2).wellFormed cfg = true
  opcode : ∀ op1 op2, (d.build op op1 op2).opcode? = some op
  operandBytes : ∀ op1 op2, (d.build op op1 op2).operandBytes = d.mode.operandBytes op1 op2
  baseCycles : ∀ op1 op2, d.baseCycles = Claims.base cfg (d.build op op1 op2)
  pagePenalty : ∀ op1 op2, d.pagePenalty = Claims.paysPageCross cfg (d.build op op1 op2)

/-- The cell of an opcode that the variant leaves undefined (R120, R121). -/
def Desc.IsUndefined (d : Desc) : Prop := d = Desc.ill ∨ ∃ k n, d = Desc.nop k n

theorem ill_isUndefined : Desc.ill.IsUndefined := .inl rfl

theorem nop_isUndefined (k : ModeKind) (n : Nat) : (Desc.nop k n).IsUndefined := .inr ⟨k, n, rfl⟩

/-- A property of the cells of a row, by opcode from `n` on. -/
def CellsFrom (P : Byte → Desc → Prop) : Nat → List Desc → Prop
  | _, [] => True
  | n, d :: ds => P (BitVec.ofNat 8 n) d ∧ CellsFrom P (n + 1) ds

/-- A property of the cells of a map, by row from `n` on. -/
def RowsFrom (P : Byte → Desc → Prop) : Nat → List (List Desc) → Prop
  | _, [] => True
  | n, row :: rows => CellsFrom P (16 * n) row ∧ RowsFrom P (n + 1) rows

theorem cellsFrom_getD {P : Byte → Desc → Prop} (hill : ∀ op, P op Desc.ill) {ds : List Desc} :
    ∀ {n : Nat}, CellsFrom P n ds → ∀ k, P (BitVec.ofNat 8 (n + k)) (ds.getD k Desc.ill) := by
  induction ds with
  | nil => exact fun _ _ => hill _
  | cons d ds ih =>
    rintro n ⟨hd, hds⟩ k
    cases k with
    | zero => exact hd
    | succ k =>
      rw [Nat.add_comm k 1, ← Nat.add_assoc, Nat.add_comm 1 k]
      exact ih hds k

theorem rowsFrom_getD {P : Byte → Desc → Prop} {rows : List (List Desc)} :
    ∀ {n : Nat}, RowsFrom P n rows → ∀ k, CellsFrom P (16 * (n + k)) (rows.getD k []) := by
  induction rows with
  | nil => exact fun _ _ => trivial
  | cons row rows ih =>
    rintro n ⟨hrow, hrows⟩ k
    cases k with
    | zero => exact hrow
    | succ k =>
      rw [Nat.add_comm k 1, ← Nat.add_assoc, Nat.add_comm 1 k]
      exact ih hrows k

/-- What holds of every cell of a map holds of the cell of every opcode. -/
theorem cellOf_of_rowsFrom {P : Byte → Desc → Prop} (hill : ∀ op, P op Desc.ill) {map : List (List Desc)}
    (h : RowsFrom P 0 map) (op : Byte) : P op (cellOf map op) := by
  have hcell := cellsFrom_getD hill (rowsFrom_getD h (op.toNat / 16)) (op.toNat % 16)
  rwa [Nat.zero_add, Nat.div_add_mod, BitVec.ofNat_toNat, BitVec.setWidth_eq] at hcell

/-- Every defined cell of R117, one evaluation of each column per cell. -/
theorem nmosMap_agrees {cfg : Config} (h : cfg.isCmos = false) :
    RowsFrom (fun op d => d.IsUndefined ∨ d.Agrees cfg op) 0 nmosMap := by
  obtain ⟨v, dc, bo, ws, lo, hi⟩ := cfg
  cases v
  case cmos => cases h
  simp only [nmosMap, nmosMap0, nmosMap1, nmosMap2, nmosMap3, nmosMap4, nmosMap5, nmosMap6, nmosMap7,
    nmosMap8, nmosMap9, nmosMapA, nmosMapB, nmosMapC, nmosMapD, nmosMapE, nmosMapF,
    List.cons_append, List.nil_append, RowsFrom, CellsFrom, ill_isUndefined, true_or, true_and, and_true]
  and_intros
  all_goals exact .inr ⟨fun _ _ => rfl, fun _ _ => rfl, fun _ _ => rfl, fun _ _ => rfl, fun _ _ => rfl⟩

theorem cmosMap_agrees {cfg : Config} (h : cfg.isCmos = true) :
    RowsFrom (fun op d => d.IsUndefined ∨ d.Agrees cfg op) 0 cmosMap := by
  obtain ⟨v, dc, bo, ws, lo, hi⟩ := cfg
  cases v
  case nmos => cases h
  simp only [cmosMap, cmosMap0, cmosMap1, cmosMap2, cmosMap3, cmosMap4, cmosMap5, cmosMap6, cmosMap7,
    cmosMap8, cmosMap9, cmosMapA, cmosMapB, cmosMapC, cmosMapD, cmosMapE, cmosMapF,
    List.cons_append, List.nil_append, RowsFrom, CellsFrom, nop_isUndefined, true_or, true_and, and_true]
  and_intros
  all_goals exact .inr ⟨fun _ _ => rfl, fun _ _ => rfl, fun _ _ => rfl, fun _ _ => rfl, fun _ _ => rfl⟩

/-! ## Every opcode's descriptor -/

theorem nmosMap_undefined : ∀ op : Byte, (cellOf nmosMap op).kind ≠ .defined → op ∈ nmosIllegal := by decide

theorem ill_agrees {cfg : Config} (hc : cfg.isCmos = false) {op : Byte} (hop : op ∈ nmosIllegal) :
    Desc.ill.Agrees cfg op where
  wellFormed _ _ := illegal_wellFormed_iff.mpr ⟨hc, hop⟩
  opcode _ _ := rfl
  operandBytes _ _ := rfl
  baseCycles _ _ := rfl
  pagePenalty _ _ := rfl

theorem cellOf_nmos_agrees {cfg : Config} (hc : cfg.isCmos = false) (op : Byte) : (cellOf nmosMap op).Agrees cfg op := by
  rcases cellOf_of_rowsFrom (fun _ => .inl ill_isUndefined) (nmosMap_agrees hc) op with hundefined | hagrees
  · have hop : op ∈ nmosIllegal := by
      apply nmosMap_undefined
      rcases hundefined with hcell | ⟨k, n, hcell⟩ <;> rw [hcell] <;> exact nofun
    rw [cellOf_nmosIllegal hop]
    exact ill_agrees hc hop
  · exact hagrees

/-- The undefined cells of R118 against R121: which list has the opcode by its length, and the cycles. -/
theorem cmosMap_undefined : ∀ op : Byte, (cellOf cmosMap op).kind ≠ .defined →
    (cellOf cmosMap op).kind = .cmosNop ∧
    (cellOf cmosMap op).baseCycles = Claims.base Config.standard (.nopStar op .one) ∧
    ((cellOf cmosMap op).length = 1 ∧ op ∈ nop1Columns ∨ (cellOf cmosMap op).length = 2 ∧ op ∈ cmosNop2 ∨
      (cellOf cmosMap op).length = 3 ∧ op ∈ cmosNop3) := by decide

theorem nop1Columns_low : ∀ op ∈ nop1Columns,
    op.toNat % 16 = 0x3 ∨ op.toNat % 16 = 0x7 ∨ op.toNat % 16 = 0xB ∨ op.toNat % 16 = 0xF := by decide

theorem nop_agrees {cfg : Config} {op : Byte} {k : ModeKind} {n : Nat}
    (hwf : ∀ op1 op2, ((Desc.nop k n).build op op1 op2).wellFormed cfg = true)
    (hbase : n = Claims.base Config.standard (.nopStar op .one)) : (Desc.nop k n).Agrees cfg op where
  wellFormed := hwf
  opcode _ _ := rfl
  operandBytes op1 op2 := by
    rw [modeKind_operandBytes_eq_take]
    cases k <;> rfl
  baseCycles _ _ := hbase
  pagePenalty _ _ := rfl

/-- A cell of R118 that the optional parameters leave in force. -/
theorem cellOf_cmos_agrees {cfg : Config} (hc : cfg.isCmos = true) {op : Byte}
    (hnop : op ∈ nop1Columns → cfg.isNop1 op = true) : (cellOf cmosMap op).Agrees cfg op := by
  rcases cellOf_of_rowsFrom (fun _ => .inl ill_isUndefined) (cmosMap_agrees hc) op with hundefined | hagrees
  · have hkind : (cellOf cmosMap op).kind ≠ .defined := by
      rcases hundefined with hcell | ⟨k, n, hcell⟩ <;> rw [hcell] <;> exact nofun
    obtain ⟨hkind, hbase, hlists⟩ := cmosMap_undefined op hkind
    rcases hundefined with hcell | ⟨k, n, hcell⟩ <;> rw [hcell] at hkind hbase hlists ⊢
    · cases hkind
    · refine nop_agrees (fun op1 op2 => ?_) hbase
      have hlength : (Desc.nop k n).length = k.length := rfl
      rw [hlength] at hlists
      simp only [Desc.nop]
      rcases hlists with ⟨hl, hop⟩ | ⟨hl, hop⟩ | ⟨hl, hop⟩ <;> rw [hl]
      · exact Bool.and_eq_true_iff.mpr ⟨hc, hnop hop⟩
      · exact Bool.and_eq_true_iff.mpr ⟨hc, List.contains_iff_mem.mpr hop⟩
      · exact Bool.and_eq_true_iff.mpr ⟨hc, List.contains_iff_mem.mpr hop⟩
  · exact hagrees

theorem waiStpCell_agrees {cfg : Config} (h : cfg.hasWaiStp = true) {op : Byte} (hop : op = 0xCB#8 ∨ op = 0xDB#8) :
    (waiStpCell op).Agrees cfg op := by
  rcases hop with rfl | rfl <;>
    exact ⟨fun _ _ => h, fun _ _ => rfl, fun _ _ => rfl, fun _ _ => rfl, fun _ _ => rfl⟩

/-- Each opcode of columns x7 and xF is that of one bit instruction (R122). -/
theorem bitOpcode_cases : ∀ op : Byte, (op.toNat % 16 = 0x7 ∨ op.toNat % 16 = 0xF) →
    ∃ b : Fin 8, op = rmbOpcode b ∨ op = smbOpcode b ∨ op = bbrOpcode b ∨ op = bbsOpcode b := by decide

theorem bitOpCell_agrees {cfg : Config} (h : cfg.hasBitOps = true) {op : Byte}
    (hop : op.toNat % 16 = 0x7 ∨ op.toNat % 16 = 0xF) : (bitOpCell op).Agrees cfg op := by
  obtain ⟨b, rfl | rfl | rfl | rfl⟩ := bitOpcode_cases op hop <;> match b with
  | 0 | 1 | 2 | 3 | 4 | 5 | 6 | 7 =>
    exact ⟨fun _ _ => h, fun _ _ => rfl, fun _ _ => rfl, fun _ _ => rfl, fun _ _ => rfl⟩

theorem descOf_agrees (cfg : Config) (op : Byte) : (descOf cfg op).Agrees cfg op := by
  cases hc : cfg.isCmos with
  | false =>
    rw [descOf_nmos hc]
    exact cellOf_nmos_agrees hc op
  | true =>
    by_cases hbit : (op.toNat % 16 = 0x7 ∨ op.toNat % 16 = 0xF) ∧ cfg.cmosBitOps = true
    · have h := hasBitOps_iff.mpr ⟨hc, hbit.2⟩
      rw [descOf_bitOp h hbit.1]
      exact bitOpCell_agrees h hbit.1
    · by_cases hwai : (op = 0xCB#8 ∨ op = 0xDB#8) ∧ cfg.cmosWaiStp = true
      · have h := hasWaiStp_iff.mpr ⟨hc, hwai.2⟩
        rw [descOf_waiStp h hwai.1]
        exact waiStpCell_agrees h hwai.1
      · have hcell : descOf cfg op = cellOf cmosMap op := by
          simp only [descOf, hc]
          grind
        rw [hcell]
        refine cellOf_cmos_agrees hc fun hop => isNop1_iff.mpr ?_
        have hlow := nop1Columns_low op hop
        grind

/-- What the decoder reads, by the length of the opcode's descriptor. -/
theorem decode_cases {cfg : Config} {bytes rest : List Byte} {i : Instr} (h : decode cfg bytes = .ok i rest) :
    (∃ op, (descOf cfg op).length = 1 ∧ bytes = op :: rest ∧ i = instrOf cfg op 0#8 0#8) ∨
    (∃ op op1, (descOf cfg op).length = 2 ∧ bytes = op :: op1 :: rest ∧ i = instrOf cfg op op1 0#8) ∨
    (∃ op op1 op2, (descOf cfg op).length = 3 ∧ bytes = op :: op1 :: op2 :: rest ∧ i = instrOf cfg op op1 op2) := by
  match bytes with
  | [] => cases h
  | op :: tail =>
    obtain hl | hl | hl := modeKind_length_cases (descOf cfg op).mode
    · rw [decode_one hl] at h
      cases h
      exact .inl ⟨op, hl, rfl, rfl⟩
    · match tail with
      | [] => simp [decode, Desc.length, hl] at h
      | op1 :: tail =>
        rw [decode_two hl] at h
        cases h
        exact .inr (.inl ⟨op, op1, hl, rfl, rfl⟩)
    · match tail with
      | [] | [_] => simp [decode, Desc.length, hl] at h
      | op1 :: op2 :: tail =>
        rw [decode_three hl] at h
        cases h
        exact .inr (.inr ⟨op, op1, op2, hl, rfl, rfl⟩)

/-- The same in one form: the instruction of the descriptor, on the operand bytes that its length takes. -/
theorem decode_eq_ok {cfg : Config} {bytes rest : List Byte} {i : Instr} (h : decode cfg bytes = .ok i rest) :
    ∃ op op1 op2, i = instrOf cfg op op1 op2 ∧ bytes = op :: [op1, op2].take ((descOf cfg op).length - 1) ++ rest := by
  rcases decode_cases h with ⟨op, hl, rfl, rfl⟩ | ⟨op, op1, hl, rfl, rfl⟩ | ⟨op, op1, op2, hl, rfl, rfl⟩
  · exact ⟨op, 0#8, 0#8, rfl, by rw [hl]; rfl⟩
  · exact ⟨op, op1, 0#8, rfl, by rw [hl]; rfl⟩
  · exact ⟨op, op1, op2, rfl, by rw [hl]; rfl⟩

theorem encode_instrOf (cfg : Config) (op op1 op2 : Byte) :
    encode (instrOf cfg op op1 op2) = some (op :: [op1, op2].take ((descOf cfg op).length - 1)) := by
  have hagrees := descOf_agrees cfg op
  rw [encode, instrOf, hagrees.opcode, hagrees.operandBytes, modeKind_operandBytes_eq_take, Option.map_some]
  rfl

/-- Settles O3: a descriptor builds a well-formed instruction of its opcode from the bytes that its length takes. -/
theorem encodeOfDecode : Obligations.EncodeOfDecode := by
  intro cfg bytes rest i h
  obtain ⟨op, op1, op2, rfl, rfl⟩ := decode_eq_ok h
  exact ⟨(descOf_agrees cfg op).wellFormed op1 op2, _, encode_instrOf cfg op op1 op2, rfl⟩

/-! ## The cycle columns -/

/-- A well-formed instruction is what the descriptor of its opcode builds. -/
theorem exists_instrOf {cfg : Config} {i : Instr} (h : i.wellFormed cfg = true) :
    ∃ op op1 op2, i = instrOf cfg op op1 op2 := by
  obtain ⟨bytes, -, hdecode⟩ := exists_coded h
  obtain ⟨op, op1, op2, hi, -⟩ := decode_eq_ok (hdecode [])
  exact ⟨op, op1, op2, hi⟩

theorem desc_instrOf (cfg : Config) (op op1 op2 : Byte) :
    (instrOf cfg op op1 op2).desc? cfg = some (descOf cfg op) := by
  rw [Instr.desc?, instrOf, (descOf_agrees cfg op).opcode, Option.map_some]

/-- Settles O7: the descriptor's count is the table's, cell by cell. -/
theorem baseCyclesByMode : Obligations.BaseCyclesByMode := by
  intro cfg i h
  obtain ⟨op, op1, op2, rfl⟩ := exists_instrOf h
  rw [Instr.baseCycles, desc_instrOf]
  exact (descOf_agrees cfg op).baseCycles op1 op2

/-- Settles O8: the descriptor's page penalty is that of the list, cell by cell. -/
theorem pageCrossIsChargedToTheListedForms : Obligations.PageCrossIsChargedToTheListedForms := by
  intro cfg i h
  obtain ⟨op, op1, op2, rfl⟩ := exists_instrOf h
  rw [Instr.pagePenalty, desc_instrOf]
  exact (descOf_agrees cfg op).pagePenalty op1 op2

end Sys2Proof
end

section
/-! What one instruction can do (10_state.md R57, 40_addressing.md R165, 60_exceptions.md R335), said once: it completes,
having written its row of R57 and nothing else, or it is abandoned with a fault. From it follow the invariant of the
machine, the rollback of a faulting step, the bounds of the cycle counter and the register-use table. -/

namespace Sys2Proof.Machine

/-! ## The faults of the bus -/

/-- The faults that an access of the bus raises: all but IllegalOpcode (R331). -/
def Fault.ofAccess : Fault → Bool
  | .unmappedAddress _ _ | .readOnlyViolation _ | .deviceError _ _ => true
  | .illegalOpcode _ _ => false

theorem runLegal_of_ofAccess {f : Fault} (h : f.ofAccess = true) (cfg : Config) : runLegal cfg (.faulted f) = true := by
  cases f with
  | illegalOpcode _ _ => cases h
  | unmappedAddress _ _ | readOnlyViolation _ | deviceError _ _ => rfl

/-- Whatever a bus operation raises is a fault of an access. -/
structure BusRes.AccessFaults {α : Type} (r : BusRes α) : Prop where
  ofAccess : ∀ f b, r = .raised f b → f.ofAccess = true

theorem ok_accessFaults {α : Type} (v : α) (b : Bus) : (BusRes.ok v b).AccessFaults := ⟨nofun⟩

theorem andThen_accessFaults {α β : Type} {r : BusRes α} {k : α → Bus → BusRes β} (hr : r.AccessFaults)
    (hk : ∀ v b, (k v b).AccessFaults) : (r.andThen k).AccessFaults := by
  refine ⟨fun f b h => ?_⟩
  rcases andThen_eq_raised.mp h with hf | ⟨v, b', -, hf⟩
  · exact hr.ofAccess f b hf
  · exact (hk v b').ofAccess f b hf

theorem memRead_accessFaults (addr : Addr) (b : Bus) : (memRead addr b).AccessFaults := by
  refine ⟨fun f b' h => ?_⟩
  rcases memRead_raised h with rfl | rfl <;> rfl

theorem memWrite_accessFaults (addr : Addr) (v : Byte) (b : Bus) : (memWrite addr v b).AccessFaults := by
  refine ⟨fun f b' h => ?_⟩
  rcases memWrite_raised h with rfl | rfl | rfl <;> rfl

theorem readPointer_accessFaults (lo hi : Addr) (b : Bus) : (readPointer lo hi b).AccessFaults :=
  andThen_accessFaults (memRead_accessFaults ..) fun _ _ =>
    andThen_accessFaults (memRead_accessFaults ..) fun _ _ => ok_accessFaults ..

theorem resolve_accessFaults (cfg : Config) (cpu : CpuState) (m : MemMode) (b : Bus) :
    (resolve cfg cpu m b).AccessFaults := by
  refine ⟨fun f b' h => ?_⟩
  obtain ⟨addr, rfl | rfl⟩ := resolve_raised h <;> rfl

theorem operandValue_accessFaults (cfg : Config) (cpu : CpuState) (o : ReadOperand) (b : Bus) :
    (operandValue cfg cpu o b).AccessFaults := by
  refine ⟨fun f b' h => ?_⟩
  obtain ⟨addr, rfl | rfl⟩ := operandValue_raised h <;> rfl

theorem push_accessFaults (v sp : Byte) (b : Bus) : (push v sp b).AccessFaults :=
  andThen_accessFaults (memWrite_accessFaults ..) fun _ _ => ok_accessFaults ..

theorem pull_accessFaults (sp : Byte) (b : Bus) : (pull sp b).AccessFaults :=
  andThen_accessFaults (memRead_accessFaults ..) fun _ _ => ok_accessFaults ..

theorem enterHandler_accessFaults (cfg : Config) (brk : Bool) (vector : Addr) (cpu : CpuState) (b : Bus) :
    (enterHandler cfg brk vector cpu b).AccessFaults :=
  andThen_accessFaults (push_accessFaults ..) fun _ _ => andThen_accessFaults (push_accessFaults ..) fun _ _ =>
    andThen_accessFaults (push_accessFaults ..) fun _ _ =>
      andThen_accessFaults (readPointer_accessFaults ..) fun _ _ => ok_accessFaults ..

theorem leaveHandler_accessFaults (cpu : CpuState) (b : Bus) : (leaveHandler cpu b).AccessFaults :=
  andThen_accessFaults (pull_accessFaults ..) fun _ _ => andThen_accessFaults (pull_accessFaults ..) fun _ _ =>
    andThen_accessFaults (pull_accessFaults ..) fun _ _ => ok_accessFaults ..

theorem fetch_accessFaults (cfg : Config) (pc : Addr) (b : Bus) : (fetch cfg pc b).AccessFaults := by
  refine ⟨fun f b' h => ?_⟩
  obtain ⟨addr, rfl | rfl⟩ := fetch_raised h <;> rfl

/-! ## The row of an instruction -/

/-- `after` on the registers and flags of a row of R57, and `before` on the others. IR, the cycles and the latch are in no
row. -/
def rowUpdate (w : Claims.Writes) (before after : CpuState) : CpuState :=
  { before with
    a := bif w.a then after.a else before.a, x := bif w.x then after.x else before.x
    y := bif w.y then after.y else before.y, sp := bif w.sp then after.sp else before.sp
    pc := bif w.pc then after.pc else before.pc, n := bif w.n then after.n else before.n
    v := bif w.v then after.v else before.v, b := bif w.b then after.b else before.b
    d := bif w.d then after.d else before.d, i := bif w.i then after.i else before.i
    z := bif w.z then after.z else before.z, c := bif w.c then after.c else before.c
    run := bif w.run then after.run else before.run }

/-- What an effect of an instruction may be: it writes the row of the instruction in R57 and nothing else, enters Waiting
or Stopped by WAI or STP alone, and costs at most 8 cycles. -/
structure Accounts (i : Instr) (s : State) (e : Effect) : Prop where
  row : e.cpu = rowUpdate (Claims.writes s.cfg i) (s.cpu.fetched i) e.cpu
  run : e.cpu.run = s.cpu.run ∨ (i = .wai ∧ e.cpu.run = .waiting) ∨ (i = .stp ∧ e.cpu.run = .stopped)
  cost : Claims.base s.cfg i + e.extra ≤ 8

/-- The stored bytes are as before unless the row writes memory. -/
def KeepsStore (i : Instr) (s : State) (b : Bus) : Prop :=
  (Claims.writes s.cfg i).memory = false → s.bus.SameStore b

/-- The fault of an abandoned instruction: of an access, or that of ILLEGAL (R320, R331). -/
def MayRaise (i : Instr) (s : State) (f : Fault) : Prop :=
  f.ofAccess = true ∨ ∃ op, i = .illegal op ∧ f = .illegalOpcode op s.cpu.pc

/-- An instruction completes with an effect of its row, or is abandoned. -/
def Outcomes (i : Instr) (s t : State) : Prop :=
  (∃ e b, Accounts i s e ∧ KeepsStore i s b ∧ t = s.completed i e b) ∨
    (∃ f b, MayRaise i s f ∧ t = s.abandon f b)

theorem Accounts.cycles_eq {i : Instr} {s : State} {e : Effect} (h : Accounts i s e) : e.cpu.cycles = s.cpu.cycles := by
  rw [h.row]
  rfl

theorem Accounts.nmiPending_eq {i : Instr} {s : State} {e : Effect} (h : Accounts i s e) :
    e.cpu.nmiPending = s.cpu.nmiPending := by
  rw [h.row]
  rfl

/-! ## The shapes of instruction -/

theorem readCycles_le (k : ModeKind) : Claims.readCycles k ≤ 6 := by cases k <;> decide

theorem storeCycles_le (k : ModeKind) : Claims.storeCycles k ≤ 8 := by cases k <;> decide

theorem modifyCycles_le {n : Nat} (hn : n ≤ 7) (k : ModeKind) : Claims.modifyCycles n k ≤ 7 := by
  cases k with
  | absx => exact hn
  | acc | zp | zpx | abs | imm | zpy | absy | izx | izy | zpi | imp | ind | iax | rel | zprel | brk =>
    simp [Claims.modifyCycles]

theorem pageExtra_le (cfg : Config) (i : Instr) (crossed : Bool) : pageExtra cfg i crossed ≤ 1 := by
  unfold pageExtra
  split <;> decide

theorem decimalExtra_le (s : State) : decimalExtra s ≤ 1 := by
  unfold decimalExtra
  split <;> decide

theorem branchIf_extra_le (taken : Bool) (off : Byte) (cpu : CpuState) : (branchIf taken off cpu).extra ≤ 2 := by
  unfold branchIf
  split
  · dsimp only
    split <;> decide
  · exact Nat.zero_le 2

section Shapes
variable {i : Instr} {s t : State}

/-- A row without the run state leaves it. -/
theorem run_of_row {e : Effect} (hrun : (Claims.writes s.cfg i).run = false)
    (hrow : e.cpu = rowUpdate (Claims.writes s.cfg i) (s.cpu.fetched i) e.cpu) : e.cpu.run = s.cpu.run := by
  rw [hrow, rowUpdate, hrun]
  rfl

/-- The outcomes of a run instruction, from the answers of its body. -/
theorem runInstr_outcomes {body : CpuState → Bus → BusRes Effect} (h : runInstr i s body = .next t)
    (hfaults : (body (s.cpu.fetched i) s.bus).AccessFaults)
    (hstore : KeepsStore i s (body (s.cpu.fetched i) s.bus).bus)
    (hok : ∀ e b, body (s.cpu.fetched i) s.bus = .ok e b → Accounts i s e) : Outcomes i s t := by
  rcases runInstr_cases h with ⟨e, b, he, rfl⟩ | ⟨f, b, hf, rfl⟩
  · rw [he] at hstore
    exact .inl ⟨e, b, hok e b he, hstore, rfl⟩
  · exact .inr ⟨f, b, .inl (hfaults.ofAccess f b hf), rfl⟩

theorem keepsStore_of_memory (hmem : (Claims.writes s.cfg i).memory = true) (b : Bus) : KeepsStore i s b :=
  fun h => absurd hmem (Bool.eq_false_iff.mp h)

theorem accounts_of_row {e : Effect} (hrow : e.cpu = rowUpdate (Claims.writes s.cfg i) (s.cpu.fetched i) e.cpu)
    (hrun : (Claims.writes s.cfg i).run = false) (hcost : Claims.base s.cfg i + e.extra ≤ 8) : Accounts i s e :=
  ⟨hrow, .inl (run_of_row hrun hrow), hcost⟩

theorem runRegister_outcomes {f : CpuState → CpuState} (h : runRegister i s f = .next t)
    (hrun : (Claims.writes s.cfg i).run = false) (hcost : Claims.base s.cfg i ≤ 8)
    (hrow : f (s.cpu.fetched i) = rowUpdate (Claims.writes s.cfg i) (s.cpu.fetched i) (f (s.cpu.fetched i))) :
    Outcomes i s t := by
  refine runInstr_outcomes h (ok_accessFaults ..) (fun _ => sameStore_refl s.bus) fun e b he => ?_
  cases he
  exact accounts_of_row hrow hrun hcost

theorem runRead_outcomes {o : ReadOperand} {f : Byte → CpuState → CpuState} {extra : Nat}
    (h : runRead i o s f extra = .next t) (hrun : (Claims.writes s.cfg i).run = false)
    (hcost : Claims.base s.cfg i ≤ 6) (hextra : extra ≤ 1)
    (hrow : ∀ v, f v (s.cpu.fetched i) =
      rowUpdate (Claims.writes s.cfg i) (s.cpu.fetched i) (f v (s.cpu.fetched i))) : Outcomes i s t := by
  refine runInstr_outcomes h
    (andThen_accessFaults (operandValue_accessFaults ..) fun _ _ => ok_accessFaults ..)
    (fun _ => andThen_sameStore (operandValue_sameStore ..) fun _ b _ => sameStore_refl b) fun e b he => ?_
  obtain ⟨r, b', -, he⟩ := andThen_eq_ok.mp he
  cases he
  have hpage := pageExtra_le s.cfg i r.crossed
  exact accounts_of_row (hrow r.value) hrun (by dsimp only; omega)

theorem runStore_outcomes {m : MemMode} {f : CpuState → Byte} (h : runStore i m s f = .next t)
    (hwrites : Claims.writes s.cfg i = { memory := true }) (hcost : Claims.base s.cfg i ≤ 8) : Outcomes i s t := by
  refine runInstr_outcomes h
    (andThen_accessFaults (resolve_accessFaults ..) fun _ _ =>
      andThen_accessFaults (memWrite_accessFaults ..) fun _ _ => ok_accessFaults ..)
    (keepsStore_of_memory (by rw [hwrites]) _) fun e b he => ?_
  obtain ⟨r, b', -, he⟩ := andThen_eq_ok.mp he
  obtain ⟨_, _, -, he⟩ := andThen_eq_ok.mp he
  cases he
  exact accounts_of_row (by rw [hwrites]; rfl) (by rw [hwrites]) hcost

theorem runModify_outcomes {m : MemMode} {f : Byte → CpuState → Byte} {g : Byte → CpuState → CpuState}
    (h : runModify i m s f g = .next t) (hmem : (Claims.writes s.cfg i).memory = true)
    (hrun : (Claims.writes s.cfg i).run = false) (hcost : Claims.base s.cfg i ≤ 7)
    (hrow : ∀ v, g v (s.cpu.fetched i) =
      rowUpdate (Claims.writes s.cfg i) (s.cpu.fetched i) (g v (s.cpu.fetched i))) : Outcomes i s t := by
  refine runInstr_outcomes h
    (andThen_accessFaults (resolve_accessFaults ..) fun _ _ =>
      andThen_accessFaults (memRead_accessFaults ..) fun _ _ =>
        andThen_accessFaults (memWrite_accessFaults ..) fun _ _ => ok_accessFaults ..)
    (keepsStore_of_memory hmem _) fun e b he => ?_
  obtain ⟨r, b', -, he⟩ := andThen_eq_ok.mp he
  obtain ⟨v, b'', -, he⟩ := andThen_eq_ok.mp he
  obtain ⟨_, _, -, he⟩ := andThen_eq_ok.mp he
  cases he
  have hpage := pageExtra_le s.cfg i r.crossed
  exact accounts_of_row (hrow v) hrun (by dsimp only; omega)

theorem resetMemoryBit_outcomes {k : Nat} {zp : Byte} (h : resetMemoryBit i k zp s = .next t)
    (hwrites : Claims.writes s.cfg i = { memory := true }) (hcost : Claims.base s.cfg i ≤ 7) : Outcomes i s t :=
  runModify_outcomes h (by rw [hwrites]) (by rw [hwrites]) hcost fun _ => by rw [hwrites]; rfl

theorem setMemoryBit_outcomes {k : Nat} {zp : Byte} (h : setMemoryBit i k zp s = .next t)
    (hwrites : Claims.writes s.cfg i = { memory := true }) (hcost : Claims.base s.cfg i ≤ 7) : Outcomes i s t :=
  runModify_outcomes h (by rw [hwrites]) (by rw [hwrites]) hcost fun _ => by rw [hwrites]; rfl

/-- A branch, taken or not, loads PC and nothing else. -/
theorem branchIf_row (taken : Bool) (off : Byte) (cpu : CpuState) :
    (branchIf taken off cpu).cpu = rowUpdate { pc := true } cpu (branchIf taken off cpu).cpu := by
  cases taken <;> rfl

theorem branchIf_accounts (hwrites : Claims.writes s.cfg i = { pc := true }) (hcost : Claims.base s.cfg i ≤ 6)
    (taken : Bool) (off : Byte) : Accounts i s (branchIf taken off (s.cpu.fetched i)) := by
  have hextra := branchIf_extra_le taken off (s.cpu.fetched i)
  exact accounts_of_row (by rw [hwrites]; exact branchIf_row ..) (by rw [hwrites]) (by omega)

theorem runBranch_outcomes {cond : CpuState → Bool} {off : Byte} (h : runBranch i cond off s = .next t)
    (hwrites : Claims.writes s.cfg i = { pc := true }) (hcost : Claims.base s.cfg i ≤ 6) : Outcomes i s t := by
  refine runInstr_outcomes h (ok_accessFaults ..) (fun _ => sameStore_refl s.bus) fun e b he => ?_
  cases he
  exact branchIf_accounts hwrites hcost ..

theorem runBitBranch_outcomes {k : Nat} {set : Bool} {zp off : Byte} (h : runBitBranch i k set zp off s = .next t)
    (hwrites : Claims.writes s.cfg i = { pc := true }) (hcost : Claims.base s.cfg i ≤ 6) : Outcomes i s t := by
  refine runInstr_outcomes h
    (andThen_accessFaults (memRead_accessFaults ..) fun _ _ => ok_accessFaults ..)
    (fun _ => andThen_sameStore (memRead_sameStore ..) fun _ b _ => sameStore_refl b) fun e b he => ?_
  obtain ⟨v, b', -, he⟩ := andThen_eq_ok.mp he
  cases he
  exact branchIf_accounts hwrites hcost ..

theorem runPush_outcomes {f : CpuState → Byte} (h : runPush i s f = .next t)
    (hwrites : Claims.writes s.cfg i = { memory := true, sp := true }) (hcost : Claims.base s.cfg i ≤ 8) :
    Outcomes i s t := by
  refine runInstr_outcomes h
    (andThen_accessFaults (push_accessFaults ..) fun _ _ => ok_accessFaults ..)
    (keepsStore_of_memory (by rw [hwrites]) _) fun e b he => ?_
  obtain ⟨sp, b', -, he⟩ := andThen_eq_ok.mp he
  cases he
  exact accounts_of_row (by rw [hwrites]; rfl) (by rw [hwrites]) hcost

theorem runPull_outcomes {f : Byte → CpuState → CpuState} (h : runPull i s f = .next t)
    (hrun : (Claims.writes s.cfg i).run = false) (hcost : Claims.base s.cfg i ≤ 8)
    (hrow : ∀ v sp, f v { s.cpu.fetched i with sp := sp } =
      rowUpdate (Claims.writes s.cfg i) (s.cpu.fetched i) (f v { s.cpu.fetched i with sp := sp })) :
    Outcomes i s t := by
  refine runInstr_outcomes h
    (andThen_accessFaults (pull_accessFaults ..) fun _ _ => ok_accessFaults ..)
    (fun _ => andThen_sameStore (pull_sameStore ..) fun _ b _ => sameStore_refl b) fun e b he => ?_
  obtain ⟨p, b', -, he⟩ := andThen_eq_ok.mp he
  cases he
  exact accounts_of_row (hrow p.1 p.2) hrun hcost

end Shapes

theorem runRmw_outcomes {build : RmwOperand → Instr} {o : RmwOperand} {s t : State} {f : Byte → CpuState → Byte}
    {g : Byte → CpuState → CpuState} (h : runRmw (build o) o s f g = .next t)
    (hmem : ∀ m, (Claims.writes s.cfg (build (.mem m))).memory = true)
    (hrun : (Claims.writes s.cfg (build o)).run = false) (hcost : Claims.base s.cfg (build o) ≤ 7)
    (hacc : ∀ cpu : CpuState, { g cpu.a cpu with a := f cpu.a cpu } =
      rowUpdate (Claims.writes s.cfg (build .acc)) cpu { g cpu.a cpu with a := f cpu.a cpu })
    (hrow : ∀ m v cpu, g v cpu = rowUpdate (Claims.writes s.cfg (build (.mem m))) cpu (g v cpu)) :
    Outcomes (build o) s t := by
  cases o with
  | acc => exact runRegister_outcomes h hrun (Nat.le_succ_of_le hcost) (hacc _)
  | mem m => exact runModify_outcomes h (hmem m) hrun hcost fun v => hrow m v _

/-! ## The control and system instructions -/

section Control
variable {s t : State}

theorem base_jmp_le (cfg : Config) (m : MemMode) : Claims.base cfg (.jmp m) ≤ 6 := by
  have hind : (if cfg.isCmos then 6 else 5) ≤ 6 := by split <;> decide
  cases m with
  | ind w => exact hind
  | zp _ | zpx _ | zpy _ | abs _ | absx _ | absy _ | izx _ | izy _ | zpi _ | iax _ =>
    simp [Claims.base, MemMode.kind]

theorem execJmp_outcomes {m : MemMode} (h : execJmp m s = .next t) : Outcomes (.jmp m) s t := by
  refine runInstr_outcomes h
    (andThen_accessFaults (resolve_accessFaults ..) fun _ _ => ok_accessFaults ..)
    (fun _ => andThen_sameStore (resolve_sameStore ..) fun _ b _ => sameStore_refl b) fun e b he => ?_
  obtain ⟨r, b', -, he⟩ := andThen_eq_ok.mp he
  cases he
  exact accounts_of_row rfl rfl (Nat.le_trans (base_jmp_le s.cfg m) (by decide))

theorem execJsr_outcomes {w : Addr} (h : execJsr w s = .next t) : Outcomes (.jsr w) s t := by
  refine runInstr_outcomes h
    (andThen_accessFaults (push_accessFaults ..) fun _ _ =>
      andThen_accessFaults (push_accessFaults ..) fun _ _ => ok_accessFaults ..)
    (keepsStore_of_memory rfl _) fun e b he => ?_
  obtain ⟨_, _, -, he⟩ := andThen_eq_ok.mp he
  obtain ⟨_, _, -, he⟩ := andThen_eq_ok.mp he
  cases he
  exact accounts_of_row rfl rfl (by simp only [Claims.base]; decide)

theorem execRts_outcomes (h : execRts s = .next t) : Outcomes .rts s t := by
  refine runInstr_outcomes h
    (andThen_accessFaults (pull_accessFaults ..) fun _ _ =>
      andThen_accessFaults (pull_accessFaults ..) fun _ _ => ok_accessFaults ..)
    (fun _ => andThen_sameStore (pull_sameStore ..) fun _ b _ =>
      andThen_sameStore (pull_sameStore _ b) fun _ b _ => sameStore_refl b) fun e b he => ?_
  obtain ⟨_, _, -, he⟩ := andThen_eq_ok.mp he
  obtain ⟨_, _, -, he⟩ := andThen_eq_ok.mp he
  cases he
  exact accounts_of_row rfl rfl (by simp only [Claims.base]; decide)

theorem execBrk_outcomes {pad : Byte} (h : execBrk pad s = .next t) : Outcomes (.brk pad) s t := by
  refine runInstr_outcomes h
    (andThen_accessFaults (enterHandler_accessFaults ..) fun _ _ => ok_accessFaults ..)
    (keepsStore_of_memory rfl _) fun e b he => ?_
  obtain ⟨cpu, _, hcpu, he⟩ := andThen_eq_ok.mp he
  obtain ⟨pc, rfl⟩ := enterHandler_ok hcpu
  cases he
  refine accounts_of_row ?_ rfl (by simp only [Claims.base]; decide)
  simp only [rowUpdate, Claims.writes]
  cases s.cfg.isCmos <;> rfl

theorem execRti_outcomes (h : execRti s = .next t) : Outcomes .rti s t := by
  refine runInstr_outcomes h
    (andThen_accessFaults (leaveHandler_accessFaults ..) fun _ _ => ok_accessFaults ..)
    (fun _ => andThen_sameStore (leaveHandler_sameStore ..) fun _ b _ => sameStore_refl b) fun e b he => ?_
  obtain ⟨cpu, _, hcpu, he⟩ := andThen_eq_ok.mp he
  obtain ⟨p, pc, rfl⟩ := leaveHandler_ok hcpu
  cases he
  exact accounts_of_row rfl rfl (by simp only [Claims.base]; decide)

theorem execWai_outcomes (h : runRegister .wai s (fun cpu => { cpu with run := .waiting }) = .next t) :
    Outcomes .wai s t := by
  refine runInstr_outcomes h (ok_accessFaults ..) (fun _ => sameStore_refl s.bus) fun e b he => ?_
  cases he
  exact ⟨rfl, .inr (.inl ⟨rfl, rfl⟩), by simp only [Claims.base]; decide⟩

theorem execStp_outcomes (h : runRegister .stp s (fun cpu => { cpu with run := .stopped }) = .next t) :
    Outcomes .stp s t := by
  refine runInstr_outcomes h (ok_accessFaults ..) (fun _ => sameStore_refl s.bus) fun e b he => ?_
  cases he
  exact ⟨rfl, .inr (.inr ⟨rfl, rfl⟩), by simp only [Claims.base]; decide⟩

theorem execIllegal_outcomes {op : Byte} (h : execIllegal op s = .next t) : Outcomes (.illegal op) s t := by
  cases h
  exact .inr ⟨_, _, .inr ⟨op, rfl, rfl⟩, rfl⟩

theorem base_nopStar_le (cfg : Config) (op : Byte) (shape : NopShape) : Claims.base cfg (.nopStar op shape) ≤ 8 := by
  simp only [Claims.base]
  grind

theorem bitTest_row (cfg : Config) (o : ReadOperand) (v : Byte) (cpu : CpuState) :
    cpu.bitTest o v = rowUpdate (Claims.writes cfg (.bit o)) cpu (cpu.bitTest o v) := by
  cases o <;> rfl

end Control

/-! ## Every instruction -/

/-- One case per shape. -/
theorem exec_outcomes {i : Instr} {s t : State} (h : exec i s = .next t) : Outcomes i s t := by
  unfold exec at h
  cases i with
  | lda o | ldx o | ldy o | and o | ora o | eor o | cmp o | cpx o | cpy o =>
    exact runRead_outcomes h rfl (readCycles_le o.kind) (Nat.zero_le 1) fun _ => rfl
  | adc o | sbc o => exact runRead_outcomes h rfl (readCycles_le o.kind) (decimalExtra_le s) fun _ => rfl
  | bit o =>
    have hrun : (Claims.writes s.cfg (.bit o)).run = false := by cases o <;> rfl
    exact runRead_outcomes h hrun (readCycles_le o.kind) (Nat.zero_le 1) fun v => bitTest_row s.cfg o v _
  | sta m | stx m | sty m | stz m => exact runStore_outcomes h rfl (storeCycles_le m.kind)
  | inc o | dec o =>
    exact runRmw_outcomes h (fun _ => rfl) (by cases o <;> rfl) (modifyCycles_le (by decide) o.kind) (fun _ => rfl) fun _ _ _ => rfl
  | asl o | lsr o | rol o | ror o =>
    have hcost : (if s.cfg.isCmos then 6 else 7) ≤ 7 := by split <;> decide
    exact runRmw_outcomes h (fun _ => rfl) (by cases o <;> rfl) (modifyCycles_le hcost o.kind) (fun _ => rfl) fun _ _ _ => rfl
  | tsb m | trb m => exact runModify_outcomes h rfl rfl (modifyCycles_le (by decide) m.kind) fun _ => rfl
  | rmb0 _ | rmb1 _ | rmb2 _ | rmb3 _ | rmb4 _ | rmb5 _ | rmb6 _ | rmb7 _ =>
    exact resetMemoryBit_outcomes h rfl (by simp only [Claims.base]; decide)
  | smb0 _ | smb1 _ | smb2 _ | smb3 _ | smb4 _ | smb5 _ | smb6 _ | smb7 _ =>
    exact setMemoryBit_outcomes h rfl (by simp only [Claims.base]; decide)
  | tax | tay | txa | tya | tsx | txs | inx | iny | dex | dey | clc | sec | cli | sei | clv | cld | sed | nop =>
    exact runRegister_outcomes h rfl (by simp only [Claims.base]; decide) rfl
  | nopStar op shape => exact runRegister_outcomes h rfl (base_nopStar_le s.cfg op shape) rfl
  | bpl _ | bmi _ | bvc _ | bvs _ | bcc _ | bcs _ | bne _ | beq _ | bra _ =>
    exact runBranch_outcomes h rfl (by simp only [Claims.base]; decide)
  | bbr0 _ _ | bbr1 _ _ | bbr2 _ _ | bbr3 _ _ | bbr4 _ _ | bbr5 _ _ | bbr6 _ _ | bbr7 _ _
  | bbs0 _ _ | bbs1 _ _ | bbs2 _ _ | bbs3 _ _ | bbs4 _ _ | bbs5 _ _ | bbs6 _ _ | bbs7 _ _ =>
    exact runBitBranch_outcomes h rfl (by simp only [Claims.base]; decide)
  | pha | php | phx | phy => exact runPush_outcomes h rfl (by simp only [Claims.base]; decide)
  | pla | plp | plx | ply => exact runPull_outcomes h rfl (by simp only [Claims.base]; decide) fun _ _ => rfl
  | jmp m => exact execJmp_outcomes h
  | jsr w => exact execJsr_outcomes h
  | rts => exact execRts_outcomes h
  | brk pad => exact execBrk_outcomes h
  | rti => exact execRti_outcomes h
  | wai => exact execWai_outcomes h
  | stp => exact execStp_outcomes h
  | illegal op => exact execIllegal_outcomes h

end Sys2Proof.Machine
end

section
/-! What a step leaves, from the outcomes of its instruction: the invariant of the machine, the rollback of a fault, the
cycle counter, and the rows of the register-use table. -/

namespace Sys2Proof.Machine

/-! ## The row in the next state -/

theorem eq_of_bif_false {α : Type} {w : Bool} {new written old : α} (h : new = bif w then written else old)
    (hw : w = false) : new = old := by
  rw [h, hw, cond_false]

/-- Settles O57: an instruction that does not fault has completed, so each register is that of its row's update. -/
theorem instructionsWriteOnlyTheirRow : Obligations.InstructionsWriteOnlyTheirRow := by
  intro i s t h _ ht
  obtain ⟨hcfg, hirq, -⟩ := exec_samePlatform h
  rcases exec_outcomes h with ⟨e, b, hacc, hstore, rfl⟩ | ⟨f, b, -, rfl⟩
  · have hrow := hacc.row
    exact ⟨eq_of_bif_false (congrArg CpuState.a hrow), eq_of_bif_false (congrArg CpuState.x hrow),
      eq_of_bif_false (congrArg CpuState.y hrow), eq_of_bif_false (congrArg CpuState.sp hrow),
      eq_of_bif_false (congrArg CpuState.n hrow), eq_of_bif_false (congrArg CpuState.v hrow),
      eq_of_bif_false (congrArg CpuState.b hrow), eq_of_bif_false (congrArg CpuState.d hrow),
      eq_of_bif_false (congrArg CpuState.i hrow), eq_of_bif_false (congrArg CpuState.z hrow),
      eq_of_bif_false (congrArg CpuState.c hrow), eq_of_bif_false (congrArg CpuState.run hrow),
      eq_of_bif_false (congrArg CpuState.pc hrow), fun hm => peek_sameStore (hstore hm),
      hacc.nmiPending_eq, hcfg, hirq⟩
  · cases ht

/-! ## What a step can do to the run state and the cycles -/

/-- The fetched instruction is one of the configuration. -/
theorem fetch_wellFormed {cfg : Config} {pc : Addr} {b b' : Bus} {i : Instr} (h : fetch cfg pc b = .ok i b') :
    i.wellFormed cfg = true := by
  rw [fetch, andThen_eq_ok] at h
  obtain ⟨op, b1, -, h⟩ := h
  split at h
  · cases h
    exact (descOf_agrees cfg op).wellFormed 0#8 0#8
  · obtain ⟨op1, b2, -, h⟩ := andThen_eq_ok.mp h
    cases h
    exact (descOf_agrees cfg op).wellFormed op1 0#8
  · obtain ⟨op1, b2, -, h⟩ := andThen_eq_ok.mp h
    obtain ⟨op2, b3, -, h⟩ := andThen_eq_ok.mp h
    cases h
    exact (descOf_agrees cfg op).wellFormed op1 op2

/-- The next state is that of a raised fault which the configuration can have. -/
def State.Abandoned (s t : State) : Prop := ∃ f b, runLegal s.cfg (.faulted f) = true ∧ t = s.abandon f b

/-- The next state is that of a step without a fault: the run state is as before or a legal one, and the cycles grow by
at most 8. -/
structure State.Advanced (s t : State) : Prop where
  run : t.cpu.run = s.cpu.run ∨ (t.isFaulted = false ∧ runLegal s.cfg t.cpu.run = true)
  le_cycles : s.cpu.cycles ≤ t.cpu.cycles
  cycles_le : t.cpu.cycles ≤ s.cpu.cycles + 8

theorem advanced_refl (s : State) : s.Advanced s := ⟨.inl rfl, Nat.le_refl _, Nat.le_add_right _ 8⟩

/-- Advancing brings no fault. -/
theorem State.Advanced.not_isFaulted {s t : State} (h : s.Advanced t) (hs : s.isFaulted = false) : t.isFaulted = false := by
  rcases h.run with hsame | ⟨hnot, -⟩
  · rw [State.isFaulted, hsame]
    exact hs
  · exact hnot

theorem wake_advanced (s : State) : s.Advanced s.wake := ⟨.inr ⟨rfl, rfl⟩, Nat.le_refl _, Nat.le_add_right _ 8⟩

theorem takeInterrupt_outcomes (src : Source) (s : State) :
    s.Abandoned (takeInterrupt src s) ∨ s.Advanced (takeInterrupt src s) := by
  have hfaults := enterHandler_accessFaults s.cfg false src.vector
    { s.cpu with nmiPending := src.latchAfter s.cpu.nmiPending, run := .running } s.bus
  cases he : enterHandler s.cfg false src.vector
      { s.cpu with nmiPending := src.latchAfter s.cpu.nmiPending, run := .running } s.bus with
  | ok cpu b =>
    obtain ⟨pc, rfl⟩ := enterHandler_ok he
    simp only [takeInterrupt, he]
    exact .inr ⟨.inr ⟨rfl, rfl⟩, Nat.le_add_right _ 7, Nat.add_le_add_left (by decide) _⟩
  | raised f b =>
    simp only [takeInterrupt, he]
    exact .inl ⟨f, b, runLegal_of_ofAccess (hfaults.ofAccess f b he) s.cfg, rfl⟩

theorem runLegal_of_mayRaise {i : Instr} {s : State} {f : Fault} (hwf : i.wellFormed s.cfg = true)
    (h : MayRaise i s f) : runLegal s.cfg (.faulted f) = true := by
  rcases h with hf | ⟨op, rfl, rfl⟩
  · exact runLegal_of_ofAccess hf s.cfg
  · exact hwf

theorem exec_wellFormed_outcomes {i : Instr} {s t : State} (hwf : i.wellFormed s.cfg = true)
    (h : exec i s = .next t) : s.Abandoned t ∨ s.Advanced t := by
  rcases exec_outcomes h with ⟨e, b, hacc, -, rfl⟩ | ⟨f, b, hf, rfl⟩
  · right
    have hcycles := hacc.cycles_eq
    have hcost := hacc.cost
    have hbase := baseCyclesByMode s.cfg i hwf
    refine ⟨?_, ?_, ?_⟩ <;> simp only [State.completed, State.isFaulted]
    · rcases hacc.run with hrun | ⟨rfl, hrun⟩ | ⟨rfl, hrun⟩
      · exact .inl hrun
      · exact .inr (by rw [hrun]; exact ⟨rfl, hwf⟩)
      · exact .inr (by rw [hrun]; exact ⟨rfl, hwf⟩)
    · omega
    · omega
  · exact .inl ⟨f, b, runLegal_of_mayRaise hwf hf, rfl⟩

theorem instructionStep_outcomes {s t : State} (h : instructionStep s = .next t) : s.Abandoned t ∨ s.Advanced t := by
  rcases instructionStep_cases h with ⟨i, b, hf, he⟩ | ⟨f, b, hf, rfl⟩
  · have hwf : i.wellFormed ({ s with bus := b } : State).cfg = true := fetch_wellFormed hf
    -- Abandoning and advancing do not look at the bus that the fetch left.
    rcases exec_wellFormed_outcomes hwf he with ⟨f, b', hlegal, rfl⟩ | ⟨hrun, hle, hge⟩
    · exact .inl ⟨f, b', hlegal, rfl⟩
    · exact .inr ⟨hrun, hle, hge⟩
  · exact .inl ⟨f, b, runLegal_of_ofAccess ((fetch_accessFaults ..).ofAccess f b hf) s.cfg, rfl⟩

/-- Every step is abandoned with a legal fault, or advances. -/
theorem step_outcomes {s t : State} (h : step s = .next t) : s.Abandoned t ∨ s.Advanced t := by
  rcases step_cases h with ⟨-, rfl⟩ | ⟨-, rfl⟩ | ⟨src, -, rfl⟩ | ⟨-, hi⟩
  · exact .inr (advanced_refl t)
  · exact .inr (wake_advanced s)
  · exact takeInterrupt_outcomes src s
  · exact instructionStep_outcomes hi

/-! ## The invariant, the rollback and the cycle counter -/

/-- Settles O53: the platform of a step keeps window and bus, and its outcome gives the run state. -/
theorem everyStepKeepsTheInvariant : Obligations.EveryStepKeepsTheInvariant := by
  intro s t hinv h
  obtain ⟨hwindow, hbus, hrun⟩ := hinv
  obtain ⟨hcfg, -, hkeeps⟩ := step_samePlatform h
  refine ⟨hcfg ▸ hwindow, busWf_of_keeps hcfg hkeeps hbus, ?_⟩
  rw [hcfg]
  rcases step_outcomes h with ⟨f, b, hlegal, rfl⟩ | hadv
  · exact hlegal
  · rcases hadv.run with hsame | ⟨-, hlegal⟩
    · rw [hsame]
      exact hrun
    · exact hlegal

/-- Settles O51: a step that did not abandon leaves no fault that was not there. -/
theorem faultsRollBackTheProcessor : Obligations.FaultsRollBackTheProcessor := by
  intro s t h hs ht
  rcases step_outcomes h with ⟨f, b, hlegal, rfl⟩ | hadv
  · exact ⟨f, rfl, hlegal⟩
  · rw [hadv.not_isFaulted hs] at ht
    cases ht

/-- A faulted core answers its fault and no next state (R336). -/
theorem step_of_faulted {s : State} {f : Fault} (h : s.cpu.run = .faulted f) : step s = .fault f := by
  simp only [step, sample, h]

theorem isFaulted_iff {s : State} : s.isFaulted = true ↔ ∃ f, s.cpu.run = .faulted f := by
  unfold State.isFaulted
  cases s.cpu.run with
  | faulted f => exact ⟨fun _ => ⟨f, rfl⟩, fun _ => rfl⟩
  | running | waiting | stopped => exact ⟨nofun, fun ⟨_, h⟩ => nomatch h⟩

theorem isFaulted_of_step {s t : State} (h : step s = .next t) : s.isFaulted = false := by
  cases hs : s.isFaulted with
  | false => rfl
  | true =>
    obtain ⟨f, hf⟩ := isFaulted_iff.mp hs
    rw [step_of_faulted hf] at h
    cases h

/-- Settles O56: an abandoned step leaves the counter, and any other is without a fault and adds at most 8. -/
theorem cyclesNeverDecrease : Obligations.CyclesNeverDecrease := by
  intro s t h
  rcases step_outcomes h with ⟨f, b, -, rfl⟩ | hadv
  · exact ⟨Nat.le_refl _, Nat.le_add_right _ 8, fun _ => rfl⟩
  · refine ⟨hadv.le_cycles, hadv.cycles_le, fun ht => ?_⟩
    rw [hadv.not_isFaulted (isFaulted_of_step h)] at ht
    cases ht

end Sys2Proof.Machine
end

section
/-! The instruction boundary (60_exceptions.md R341 to R346, R370), the fetch of a decoded instruction (R110, R114), and
reset (70_reset_and_hazards.md R380, R381). -/

namespace Sys2Proof.Machine

/-! ## Sampling -/

section Sampling
variable {cpu : CpuState} {irq : Bool} {s : State}

theorem sample_of_running (h : cpu.run = .running) : sample cpu irq =
    if cpu.nmiPending then .interrupt .nmi else if irq && !cpu.i then .interrupt .irq else .instruction := by
  simp only [sample, h]

theorem sample_of_waiting (h : cpu.run = .waiting) : sample cpu irq =
    if cpu.nmiPending then .interrupt .nmi
    else if irq then (if cpu.i then .wake else .interrupt .irq) else .idle := by
  simp only [sample, h]

theorem sample_of_stopped (h : cpu.run = .stopped) : sample cpu irq = .idle := by
  simp only [sample, h]

/-- An IRQ is not taken while the line is low or I is set. -/
theorem sample_instruction (h : cpu.run = .running) (hnmi : cpu.nmiPending = false)
    (hirq : irq = false ∨ cpu.i = true) : sample cpu irq = .instruction := by
  rcases hirq with hirq | hirq <;> simp [sample_of_running h, hnmi, hirq]

theorem step_of_interrupt {src : Source} (h : sample s.cpu s.irqLine = .interrupt src) :
    step s = .next (takeInterrupt src s) := by
  simp only [step, h]

theorem step_of_instruction (h : sample s.cpu s.irqLine = .instruction) : step s = instructionStep s := by
  simp only [step, h]

theorem step_of_idle (h : sample s.cpu s.irqLine = .idle) : step s = .next s := by
  simp only [step, h]

theorem step_of_wake (h : sample s.cpu s.irqLine = .wake) : step s = .next s.wake := by
  simp only [step, h]

theorem step_of_stopped (h : s.cpu.run = .stopped) : step s = .next s := step_of_idle (sample_of_stopped h)

end Sampling

/-- Settles O48: each clause is one branch of the sampling, and the step of that boundary. -/
theorem stepSamplesTheInputs : Obligations.StepSamplesTheInputs := by
  intro s
  refine ⟨?runNmi, ?runIrq, ?runInstr, ?waitIdle, ?waitNmi, ?waitIrq, ?waitWake, step_of_stopped, fun f => step_of_faulted⟩
  case runNmi => exact fun h hnmi => step_of_interrupt (by simp [sample_of_running h, hnmi])
  case runIrq => exact fun h hnmi hirq hi => step_of_interrupt (by simp [sample_of_running h, hnmi, hirq, hi])
  case runInstr => exact fun h hnmi hirq => step_of_instruction (sample_instruction h hnmi hirq)
  case waitIdle => exact fun h hnmi hirq => step_of_idle (by simp [sample_of_waiting h, hnmi, hirq])
  case waitNmi => exact fun h hnmi => step_of_interrupt (by simp [sample_of_waiting h, hnmi])
  case waitIrq => exact fun h hnmi hirq hi => step_of_interrupt (by simp [sample_of_waiting h, hnmi, hirq, hi])
  case waitWake => exact fun h hnmi hirq hi => step_of_wake (by simp [sample_of_waiting h, hnmi, hirq, hi])

/-! ## Reset -/

theorem resetVector_succ : resetVector + 1 = 0xFFFD#16 := by decide

/-- A readable vector loads PC, low byte first (R380). -/
theorem hostReset_of_reads_ok {draw : ResetDraw} {s : State} {lo hi : Byte} {b : Bus}
    (h : Claims.readsInOrder [0xFFFC#16, 0xFFFD#16] s.bus = .ok [lo, hi] b) :
    hostReset draw s = { s with cpu := { resetCpu s.cfg draw with pc := word hi lo }, bus := b } := by
  have hread : readPointer resetVector 0xFFFD#16 s.bus = .ok (word hi lo) b :=
    (readPointer_of_readsInOrder _ _ _).1 lo hi b h
  simp only [hostReset, resetVector_succ, hread]

/-- A vector read that raises leaves the fault and the drawn PC (R381). -/
theorem hostReset_of_reads_raised {draw : ResetDraw} {s : State} {f : Fault} {b : Bus}
    (h : Claims.readsInOrder [0xFFFC#16, 0xFFFD#16] s.bus = .raised f b) :
    hostReset draw s = { s with cpu := { resetCpu s.cfg draw with run := .faulted f }, bus := b } := by
  have hread : readPointer resetVector 0xFFFD#16 s.bus = .raised f b := (readPointer_of_readsInOrder _ _ _).2 f b h
  simp only [hostReset, resetVector_succ, hread]

theorem hostReset_nmiPending (draw : ResetDraw) (s : State) : (hostReset draw s).cpu.nmiPending = false := by
  unfold hostReset
  split <;> rfl

/-- Settles O52: no boundary of these run states changes the core, and reset starts from none of it. -/
theorem onlyResetLeavesStoppedAndFaulted : Obligations.OnlyResetLeavesStoppedAndFaulted := by
  intro s hs
  refine ⟨?stays, ?reports, ?latches, rfl, ?reset⟩
  case stays =>
    intro t h
    rcases hs with hstopped | hfaulted
    · rw [step_of_stopped hstopped] at h
      cases h
      rfl
    · rw [isFaulted_of_step h] at hfaulted
      cases hfaulted
  case reports => exact fun f hf => ⟨step_of_faulted hf, step_of_faulted (s := nmi s) hf⟩
  case latches => exact fun h => step_of_stopped (s := nmi s) h
  case reset =>
    intro draw
    refine ⟨hostReset_nmiPending draw s, ?_, ?_⟩
    · intro lo hi b h
      rw [hostReset_of_reads_ok h]
      rfl
    · intro f b h
      rw [hostReset_of_reads_raised h]

/-- Reads in order as a sequence of bus operations. -/
theorem readsInOrder_cons (addr : Addr) (more : List Addr) (b : Bus) :
    Claims.readsInOrder (addr :: more) b =
      (memRead addr b).andThen fun v b => (Claims.readsInOrder more b).andThen fun vs b => .ok (v :: vs) b := by
  rw [Claims.readsInOrder]
  cases memRead addr b with
  | raised f b' => rfl
  | ok v b' =>
    rw [andThen_ok]
    dsimp only
    cases Claims.readsInOrder more b' <;> rfl

/-- Processor reads in order keep the stored bytes. -/
theorem readsInOrder_sameStore (addrs : List Addr) : ∀ b : Bus, b.SameStore (Claims.readsInOrder addrs b).bus := by
  induction addrs with
  | nil => exact sameStore_refl
  | cons addr more ih =>
    intro b
    rw [readsInOrder_cons]
    exact andThen_sameStore (memRead_sameStore addr b) fun _ b _ =>
      andThen_sameStore (ih b) fun _ b _ => sameStore_refl b

/-- Processor reads in order raise read faults. -/
theorem readsInOrder_raised {f : Fault} {b' : Bus} {addrs : List Addr} :
    ∀ {b : Bus}, Claims.readsInOrder addrs b = .raised f b' → Claims.readFault f := by
  induction addrs with
  | nil => exact nofun
  | cons addr more ih =>
    intro b h
    rw [readsInOrder_cons, andThen_eq_raised] at h
    rcases h with h | ⟨v, b1, -, h⟩
    · exact ⟨addr, memRead_raised h⟩
    · rcases andThen_eq_raised.mp h with h | ⟨vs, b2, -, h⟩
      · exact ih h
      · cases h

theorem sameBytes_of_readsInOrder_ok {addrs : List Addr} {b b' : Bus} {vs : List Byte}
    (h : Claims.readsInOrder addrs b = .ok vs b') : Claims.sameBytes b b' := by
  have hstore := readsInOrder_sameStore addrs b
  rw [h] at hstore
  exact peek_sameStore hstore

theorem sameBytes_of_readsInOrder_raised {addrs : List Addr} {b b' : Bus} {f : Fault}
    (h : Claims.readsInOrder addrs b = .raised f b') : Claims.sameBytes b b' := by
  have hstore := readsInOrder_sameStore addrs b
  rw [h] at hstore
  exact peek_sameStore hstore

/-- Settles O58: the vector is two processor reads, and either outcome of them gives the whole state. -/
theorem resetLoadsTheVector : Obligations.ResetLoadsTheVector := by
  intro draw s
  constructor
  · intro lo hi b h
    rw [hostReset_of_reads_ok h, word_eq_ofNat]
    exact ⟨rfl, sameBytes_of_readsInOrder_ok h⟩
  · intro f b h
    rw [hostReset_of_reads_raised h]
    exact ⟨rfl, readsInOrder_raised h, sameBytes_of_readsInOrder_raised h⟩

/-- Settles O54: both vector bytes of the standard platform read zero. -/
theorem resetStateHasTheInvariant : Obligations.ResetStateHasTheInvariant := by
  refine ⟨⟨rfl, rfl, rfl⟩, ?_⟩
  rintro ⟨cfg, cpu, irqLine, bus⟩ rfl rfl rfl
  have hvector : Claims.readsInOrder [0xFFFC#16, 0xFFFD#16] Bus.standard = .ok [0#8, 0#8] Bus.standard := rfl
  rw [hostReset_of_reads_ok hvector]
  rfl

/-! ## The fetch of a decoded instruction -/

/-- Reference devices that hold the bytes of an instruction at `pc` give it to the fetch, and the bus is as before. -/
theorem fetch_of_decode {cfg : Config} {pc : Addr} {b : Bus} {bytes rest : List Byte} {i : Instr}
    (h : decode cfg bytes = .ok i rest)
    (hpeek : ∀ k, k < bytes.length - rest.length → b.peek (pc + BitVec.ofNat 16 k) = bytes[k]?) :
    fetch cfg pc b = .ok i b := by
  have hpc : pc + BitVec.ofNat 16 0 = pc := BitVec.add_zero pc
  rcases decode_cases h with ⟨op, hl, rfl, rfl⟩ | ⟨op, op1, hl, rfl, rfl⟩ | ⟨op, op1, op2, hl, rfl, rfl⟩
  · have h0 := hpeek 0 (by simp)
    rw [hpc] at h0
    exact fetch_one h0 hl
  · have h0 := hpeek 0 (by simp only [List.length_cons]; omega)
    rw [hpc] at h0
    exact fetch_two h0 (hpeek 1 (by simp only [List.length_cons]; omega)) hl
  · have h0 := hpeek 0 (by simp only [List.length_cons]; omega)
    rw [hpc] at h0
    exact fetch_three h0 (hpeek 1 (by simp only [List.length_cons]; omega))
      (hpeek 2 (by simp only [List.length_cons]; omega)) hl

theorem instructionStep_of_fetch {s : State} {i : Instr} {b : Bus} (h : fetch s.cfg s.cpu.pc s.bus = .ok i b) :
    instructionStep s = exec i { s with bus := b } := by
  simp only [instructionStep, h]

/-- Settles O47: the boundary asks for an instruction, and the fetch answers the decoded one. -/
theorem stepRunsTheDecodedInstruction : Obligations.StepRunsTheDecodedInstruction := by
  intro s i bytes rest hrun hnmi hirq hdecode hpeek
  rw [step_of_instruction (sample_instruction hrun hnmi hirq), instructionStep_of_fetch (fetch_of_decode hdecode hpeek)]

/-! ## The illegal opcodes of NMOS -/

theorem nmosIllegal_nodup : nmosIllegal.Nodup := by decide

/-- The fetch of an illegal opcode reads the opcode alone (R128, R333). -/
theorem fetch_nmosIllegal {cfg : Config} (hc : cfg.isCmos = false) {pc : Addr} {b b' : Bus} {op : Byte}
    (hop : op ∈ nmosIllegal) (hread : memRead pc b = .ok op b') : fetch cfg pc b = .ok (.illegal op) b' := by
  have hcell := descOf_nmosIllegal hc hop
  have hlength : (descOf cfg op).length = 1 := congrArg Desc.length hcell
  rw [fetch, hread, andThen_ok, hlength, instrOf, hcell]
  rfl

/-- Settles O46: the fetch stops at the opcode and its meaning raises; what the decoder reads is well-formed, so ILLEGAL
comes from the opcodes of the list on NMOS alone. -/
theorem illegalOpcodesFaultOnNmos : Obligations.IllegalOpcodesFaultOnNmos := by
  refine ⟨⟨rfl, nmosIllegal_nodup⟩, fun s op b hsample hread => ⟨?fault, ?others⟩⟩
  case fault =>
    intro hc hop
    have hsame : Claims.sameBytes s.bus (memRead s.cpu.pc s.bus).bus := peek_sameStore (memRead_sameStore ..)
    rw [hread] at hsame
    refine ⟨illegal_coded hc hop, rfl, ?_, hsame⟩
    rw [step_of_instruction hsample, instructionStep_of_fetch (fetch_nmosIllegal hc hop hread)]
    rfl
  case others =>
    rintro op' rest i more hlegal hdecode rfl
    obtain ⟨hwf, -⟩ := encodeOfDecode s.cfg _ _ _ hdecode
    obtain ⟨hc, hop⟩ := illegal_wellFormed_iff.mp hwf
    rcases hlegal with hcmos | hnot
    · rw [hc] at hcmos
      cases hcmos
    · exact hnot hop

end Sys2Proof.Machine
end

section
/-! The dispatcher and the inspector (20_memory.md R76 to R81, R103): an address without an owner, a peripheral's replies,
and what an access of inspector origin leaves. -/

namespace Sys2Proof.Machine

/-! ## An address without an owner -/

theorem busRead_of_unowned {b : Bus} {addr : Addr} (h : b.lookup addr = none) (p : Bool) :
    b.read addr p = .raised (.unmappedAddress addr .read) b := by
  simp only [Bus.read, h]

theorem busWrite_of_unowned {b : Bus} {addr : Addr} (h : b.lookup addr = none) (v : Byte) (p : Bool) :
    b.write addr v p = .raised (.unmappedAddress addr .write) b := by
  simp only [Bus.write, h]

/-! ## A peripheral -/

section Peripheral
variable {b : Bus} {addr : Addr} {d : Binding} {model state : Nat}

theorem find_setDeviceState (hk : d.kind = .peripheral model state) (next : Nat) {ds : List Binding}
    (hl : ds.find? (·.owns addr) = some d) :
    (setDeviceState addr next ds).find? (·.owns addr) = some { d with kind := .peripheral model next } := by
  induction ds with
  | nil => cases hl
  | cons e ds ih =>
    rw [List.find?_cons] at hl
    cases he : e.owns addr with
    | true =>
      rw [he] at hl
      cases hl
      -- The new state is no part of the range.
      have he' : ({ d with kind := .peripheral model next } : Binding).owns addr = true := he
      simp only [setDeviceState, he, if_true, hk, List.find?_cons, he']
    | false =>
      rw [he] at hl
      simp only [setDeviceState, he, Bool.false_eq_true, if_false, List.find?_cons, ih hl]

variable (hl : b.lookup addr = some d) (hk : d.kind = .peripheral model state)
include hl hk

/-- The owner is as before but for its state. -/
theorem lookup_setDevice (next : Nat) :
    (b.setDevice addr next).lookup addr = some { d with kind := .peripheral model next } :=
  find_setDeviceState hk next hl

theorem busRead_processor_of_value {x : Byte} (hx : (Config.deviceRead model state addr true).value = some x) :
    b.read addr true = .ok x (b.setDevice addr (Config.deviceRead model state addr true).next) := by
  simp only [Bus.read, hl, hk, peripheralRead, hx]

theorem busRead_processor_of_failure (hx : (Config.deviceRead model state addr true).value = none) :
    b.read addr true =
      .raised (.deviceError addr .read) (b.setDevice addr (Config.deviceRead model state addr true).next) := by
  simp only [Bus.read, hl, hk, peripheralRead, hx]

/-- An inspector read answers what the processor would read, where the device admits both (R78). -/
theorem busRead_inspector_of_values {x y : Byte} (hx : (Config.deviceRead model state addr true).value = some x)
    (hy : (Config.deviceRead model state addr false).value = some y) : b.read addr false = .ok x b := by
  simp only [Bus.read, hl, hk, peripheralRead, hx, hy, Option.bind_some, setDevice_same hl hk]

theorem busRead_inspector_of_failure (h : (Config.deviceRead model state addr true).value = none ∨
    (Config.deviceRead model state addr false).value = none) :
    b.read addr false = .raised (.deviceError addr .read) b := by
  have hvalue : (peripheralRead model state addr false).value = none := by
    rcases h with h | h <;> simp only [peripheralRead, h, Option.bind_none, Option.bind_fun_none]
  have hnext : (peripheralRead model state addr false).next = state := rfl
  simp only [Bus.read, hl, hk, hvalue, hnext, setDevice_same hl hk]

end Peripheral

/-- Settles O15: the lookup decides, and for a peripheral each reply is one branch of the access. -/
theorem busAccessesReachTheOwnerOrFault : Obligations.BusAccessesReachTheOwnerOrFault := by
  intro b addr v p
  refine ⟨fun h => ⟨busRead_of_unowned h p, busWrite_of_unowned h v p⟩, fun d model state hl hk => ?_⟩
  refine ⟨?value, busRead_processor_of_failure hl hk, busRead_inspector_of_failure hl hk, lookup_setDevice hl hk _,
    lookup_setDevice hl hk _, ?stored, ?readOnly, ?failed⟩
  case value =>
    exact fun x hx => ⟨busRead_processor_of_value hl hk hx, fun y hy => busRead_inspector_of_values hl hk hx hy⟩
  case stored | readOnly | failed => exact fun h => by simp only [Bus.write, hl, hk, h]

/-! ## The inspector -/

/-- Where the processor's read raises, the inspector's raises the same, and nothing changes. -/
theorem busRead_inspector_of_raised {b b' : Bus} {addr : Addr} {f : Fault} (h : b.read addr true = .raised f b') :
    b.read addr false = .raised f b := by
  cases hl : b.lookup addr with
  | none =>
    rw [busRead_of_unowned hl] at h ⊢
    cases h
    rfl
  | some d =>
    cases hk : d.kind with
    | ram | rom =>
      rw [busRead_of_peek (peek_of_reference hl (by simp [hk]))] at h
      cases h
    | peripheral model state =>
      cases hx : (Config.deviceRead model state addr true).value with
      | some x =>
        rw [busRead_processor_of_value hl hk hx] at h
        cases h
      | none =>
        rw [busRead_processor_of_failure hl hk hx] at h
        cases h
        exact busRead_inspector_of_failure hl hk (.inl hx)

/-- Where the processor's read answers, the inspector's gives the same byte or the device refuses it. -/
theorem busRead_inspector_of_ok {b b' : Bus} {addr : Addr} {x : Byte} (h : b.read addr true = .ok x b') :
    b.read addr false = .ok x b ∨ b.read addr false = .raised (.deviceError addr .read) b := by
  cases hl : b.lookup addr with
  | none =>
    rw [busRead_of_unowned hl] at h
    cases h
  | some d =>
    cases hk : d.kind with
    | ram | rom =>
      rw [busRead_of_peek (peek_of_reference hl (by simp [hk]))] at h ⊢
      cases h
      exact .inl rfl
    | peripheral model state =>
      cases hx : (Config.deviceRead model state addr true).value with
      | none =>
        rw [busRead_processor_of_failure hl hk hx] at h
        cases h
      | some x' =>
        rw [busRead_processor_of_value hl hk hx] at h
        cases h
        cases hy : (Config.deviceRead model state addr false).value with
        | some y => exact .inl (busRead_inspector_of_values hl hk hx hy)
        | none => exact .inr (busRead_inspector_of_failure hl hk (.inr hy))

/-- Settles O17: an inspector read leaves the bus, and answers or fails as the processor's read does but for a refusal; an
inspector write is the bus write. -/
theorem inspectorAccessesHaveNoSideEffects : Obligations.InspectorAccessesHaveNoSideEffects := by
  intro s addr v
  have hbus := busRead_inspector_bus s.bus addr
  refine ⟨?answers, ?fails, fun f b => busRead_inspector_of_raised, fun x b => busRead_inspector_of_ok,
    fun x hx => busRead_of_peek hx false, ?done, ?failed⟩
  case answers =>
    intro x b h
    have hb : b = s.bus := by rw [← hbus, show s.bus.read addr false = .ok x b from h]; rfl
    exact ⟨hb, busRead_processor_of_inspector h⟩
  case fails =>
    intro f b h
    rw [← hbus, show s.bus.read addr false = .raised f b from h]
    rfl
  case done =>
    intro t h
    unfold inspectWrite at h
    split at h
    · next b hw =>
      cases h
      exact ⟨rfl, rfl, rfl, hw⟩
    · cases h
  case failed =>
    intro f t h
    unfold inspectWrite at h
    split at h
    · cases h
    · next f' b hw =>
      cases h
      exact ⟨rfl, rfl, rfl, hw⟩

end Sys2Proof.Machine
end

section
/-! Bulk load (20_memory.md R84), and the registry calls (R73, R74): the ranges they leave in order, the owner of each
address after them, and the bytes that a reference device brings and takes. -/

namespace Sys2Proof.Machine

/-! ## Bulk load -/

/-- A stored byte is a matter of the owner and of the byte in the list. -/
theorem peek_congr {b b' : Bus} {addr : Addr} (hl : b'.lookup addr = b.lookup addr)
    (hm : Memory.read b'.mem addr.toNat = Memory.read b.mem addr.toNat) : b'.peek addr = b.peek addr := by
  simp only [Bus.peek, hl, hm]

theorem readable_iff {b : Bus} {addr : Addr} :
    b.readable addr ↔ ∃ d, b.lookup addr = some d ∧ (d.kind = .ram ∨ d.kind = .rom) := by
  unfold Bus.readable Bus.peek
  cases b.lookup addr with
  | none => simp
  | some d => cases hk : d.kind <;> simp [hk]

theorem lookup_isSome_of_readable {b : Bus} {addr : Addr} (h : b.readable addr) : (b.lookup addr).isSome = true := by
  obtain ⟨d, hl, -⟩ := readable_iff.mp h
  rw [hl, Option.isSome_some]

section Load
variable {b : Bus} {start : Nat} {v : Byte} {bytes : List Byte}

theorem firstUnmapped_cons_of_owned (hstart : start < 65536) (hl : (b.lookup (BitVec.ofNat 16 start)).isSome = true) :
    firstUnmapped b start (v :: bytes) = firstUnmapped b (start + 1) bytes := by
  obtain ⟨d, hd⟩ := Option.isSome_iff_exists.mp hl
  rw [firstUnmapped, if_neg (by omega), hd]

theorem firstUnmapped_cons_of_unowned (h : 65536 ≤ start ∨ b.lookup (BitVec.ofNat 16 start) = none) :
    firstUnmapped b start (v :: bytes) = some start := by
  rw [firstUnmapped]
  split
  · rfl
  · rcases h with h | h
    · omega
    · rw [h]

end Load

/-- Addresses with owners only are all mapped. -/
theorem firstUnmapped_eq_none {b : Bus} {bytes : List Byte} : ∀ {start : Nat},
    (∀ k, k < bytes.length → start + k < 65536 ∧ (b.lookup (BitVec.ofNat 16 (start + k))).isSome = true) →
    firstUnmapped b start bytes = none := by
  induction bytes with
  | nil => exact fun _ => rfl
  | cons v bytes ih =>
    intro start h
    obtain ⟨hstart, hl⟩ : start < 65536 ∧ (b.lookup (BitVec.ofNat 16 start)).isSome = true := h 0 (Nat.zero_lt_succ _)
    rw [firstUnmapped_cons_of_owned hstart hl]
    refine ih fun k hk => ?_
    rw [Nat.add_assoc, Nat.add_comm 1 k]
    exact h (k + 1) (Nat.succ_lt_succ hk)

/-- The first address without an owner is the one reported. -/
theorem firstUnmapped_eq_some {b : Bus} {bytes : List Byte} : ∀ {start k : Nat}, k < bytes.length →
    (∀ j, j < k → start + j < 65536 ∧ (b.lookup (BitVec.ofNat 16 (start + j))).isSome = true) →
    (65536 ≤ start + k ∨ b.lookup (BitVec.ofNat 16 (start + k)) = none) →
    firstUnmapped b start bytes = some (start + k) := by
  induction bytes with
  | nil => exact fun hk => nomatch hk
  | cons v bytes ih =>
    intro start k hk hbelow hat
    cases k with
    | zero => exact firstUnmapped_cons_of_unowned hat
    | succ k =>
      obtain ⟨hstart, hl⟩ : start < 65536 ∧ (b.lookup (BitVec.ofNat 16 start)).isSome = true :=
        hbelow 0 (Nat.zero_lt_succ _)
      have hshift (j : Nat) : start + 1 + j = start + (j + 1) := by omega
      rw [firstUnmapped_cons_of_owned hstart hl, ← hshift k]
      refine ih (Nat.lt_of_succ_lt_succ hk) (fun j hj => ?_) (by rwa [hshift])
      rw [hshift]
      exact hbelow (j + 1) (Nat.succ_lt_succ hj)

/-- What a load into reference devices leaves: each byte of the sequence at its address, and every other as before. -/
structure Loaded (start : Nat) (bytes : List Byte) (b b' : Bus) : Prop where
  registry : b'.registry = b.registry
  wf : Memory.wf b'.mem = true
  stored : ∀ k, k < bytes.length → b'.peek (BitVec.ofNat 16 (start + k)) = bytes[k]?
  others : ∀ a : Addr, (a.toNat < start ∨ start + bytes.length ≤ a.toNat) → b'.peek a = b.peek a

theorem loadBytes_of_readable {bytes : List Byte} : ∀ {start : Nat} {b : Bus}, Memory.wf b.mem = true →
    (∀ k, k < bytes.length → start + k < 65536 ∧ b.readable (BitVec.ofNat 16 (start + k))) →
    ∃ b', loadBytes start bytes b = .ok () b' ∧ Loaded start bytes b b' := by
  induction bytes with
  | nil => exact fun hm _ => ⟨_, rfl, ⟨rfl, hm, fun _ hk => (nomatch hk), fun _ _ => rfl⟩⟩
  | cons v bytes ih =>
    intro start b hm h
    have hshift (k : Nat) : start + 1 + k = start + (k + 1) := by omega
    obtain ⟨hstart, hreadable⟩ := h 0 (Nat.zero_lt_succ _)
    obtain ⟨d, hl, hk⟩ := readable_iff.mp hreadable
    rw [Nat.add_zero] at hstart hl
    have hwrite := busWrite_inspector_of_reference hl hk v
    have hfirst : (BitVec.ofNat 16 start).toNat = start := by rw [BitVec.toNat_ofNat]; omega
    obtain ⟨b', hload, hloaded⟩ := ih (start := start + 1)
      (b := { b with mem := Memory.write b.mem (BitVec.ofNat 16 start).toNat v }) (memory_wf_write _ v hm) fun k hk => by
        rw [hshift]
        obtain ⟨hlt, hr⟩ := h (k + 1) (Nat.succ_lt_succ hk)
        exact ⟨hlt, readable_iff.mpr ((readable_iff (b := b)).mp hr)⟩
    refine ⟨b', by rw [loadBytes, hwrite, andThen_ok, hload], ⟨hloaded.registry, hloaded.wf, ?stored, ?others⟩⟩
    case stored =>
      intro k hk'
      cases k with
      | zero =>
        rw [Nat.add_zero, hloaded.others _ (by omega), peek_write_of_reference hm hl hk v]
        rfl
      | succ k =>
        rw [← hshift, hloaded.stored k (Nat.lt_of_succ_lt_succ hk')]
        rfl
    case others =>
      intro a ha
      rw [List.length_cons] at ha
      rw [hloaded.others a (by omega)]
      refine sameBytesBut_of_busWrite hwrite a fun hmem => ?_
      rw [List.mem_singleton.mp hmem] at ha
      omega

/-- Settles O60: the first loop finds no address or the first one without an owner, and the second writes byte by byte. -/
theorem loadValidatesThenStores : Obligations.LoadValidatesThenStores := by
  intro s start bytes hbus
  obtain ⟨hm, hreg⟩ := Bool.and_eq_true_iff.mp hbus
  constructor
  · intro h
    obtain ⟨b', hload, hloaded⟩ := loadBytes_of_readable hm h
    have hmapped : firstUnmapped s.bus start.toNat bytes = none :=
      firstUnmapped_eq_none fun k hk => ⟨(h k hk).1, lookup_isSome_of_readable (h k hk).2⟩
    refine ⟨{ s with bus := b' }, by simp only [load, hmapped, hload], rfl, ?_, hloaded.stored, hloaded.others⟩
    rw [State.busWf, hloaded.wf, Bool.true_and, hloaded.registry]
    exact hreg
  · intro k hk hbelow hat
    simp only [load, firstUnmapped_eq_some hk hbelow hat]

/-! ## Registering a device -/

/-- Two ranges in order share an address exactly when they overlap. -/
theorem overlaps_iff {d e : Binding} (hd : d.start.toNat ≤ d.stop.toNat) (he : e.start.toNat ≤ e.stop.toNat) :
    d.overlaps e = true ↔ ∃ a : Addr, d.owns a = true ∧ e.owns a = true := by
  simp only [Binding.overlaps, Bool.and_eq_true, decide_eq_true_eq, owns_iff]
  constructor
  · rintro ⟨h1, h2⟩
    rcases Nat.le_total d.start.toNat e.start.toNat with h | h
    · exact ⟨e.start, ⟨h, h2⟩, Nat.le_refl _, he⟩
    · exact ⟨d.start, ⟨Nat.le_refl _, hd⟩, h, h1⟩
  · rintro ⟨a, ⟨h1, h2⟩, h3, h4⟩
    exact ⟨Nat.le_trans h1 h4, Nat.le_trans h3 h2⟩

theorem fits_iff {cfg : Config} {d : Binding} : d.fits cfg = true ↔
    d.start.toNat ≤ d.stop.toNat ∧ cfg.winLo.toNat ≤ d.start.toNat ∧ d.stop.toNat ≤ cfg.winHi.toNat := by
  simp only [Binding.fits, Bool.and_eq_true, decide_eq_true_eq, and_assoc]

/-- The refusal of R73, as numbers and addresses. -/
def Conflicts (cfg : Config) (registry : List Binding) (d : Binding) : Prop :=
  d.stop.toNat < d.start.toNat ∨ d.start.toNat < cfg.winLo.toNat ∨ cfg.winHi.toNat < d.stop.toNat ∨
    ∃ e ∈ registry, ∃ a : Addr, d.owns a = true ∧ e.owns a = true

theorem accepted_iff {cfg : Config} {registry : List Binding} (hreg : registryWf cfg registry = true) {d : Binding} :
    (d.fits cfg && !(registry.any fun e => d.overlaps e)) = true ↔ ¬ Conflicts cfg registry d := by
  rw [Bool.and_eq_true, fits_iff, Bool.not_eq_true', List.any_eq_false]
  constructor
  · rintro ⟨⟨horder, hlo, hhi⟩, hno⟩ (h | h | h | ⟨e, he, hshared⟩)
    · omega
    · omega
    · omega
    · obtain ⟨-, heorder, -⟩ := registryWfFrom_bounds hreg he
      exact hno e he ((overlaps_iff horder heorder).mpr hshared)
  · intro h
    simp only [Conflicts, not_or, Nat.not_lt] at h
    obtain ⟨horder, hlo, hhi, hno⟩ := h
    refine ⟨⟨horder, hlo, hhi⟩, fun e he hover => hno ⟨e, he, ?_⟩⟩
    obtain ⟨-, heorder, -⟩ := registryWfFrom_bounds hreg he
    exact (overlaps_iff horder heorder).mp hover

theorem mem_insertBinding {d e : Binding} {ds : List Binding} : e ∈ insertBinding d ds ↔ e = d ∨ e ∈ ds := by
  induction ds with
  | nil => exact List.mem_cons
  | cons c ds ih =>
    rw [insertBinding]
    split
    · exact List.mem_cons
    · rw [List.mem_cons, ih, List.mem_cons]
      exact or_left_comm

/-- A range that meets no other goes between those below and those above it. -/
theorem registryWfFrom_insertBinding {hi : Nat} {d : Binding} (horder : d.start.toNat ≤ d.stop.toNat)
    (hhi : d.stop.toNat ≤ hi) {ds : List Binding} : ∀ {lo : Nat}, lo ≤ d.start.toNat →
    (∀ e ∈ ds, d.overlaps e = false) → registryWfFrom hi lo ds = true →
    registryWfFrom hi lo (insertBinding d ds) = true := by
  induction ds with
  | nil => exact fun hlo _ _ => registryWfFrom_cons.mpr ⟨hlo, horder, hhi, rfl⟩
  | cons e ds ih =>
    intro lo hlo hno h
    obtain ⟨helo, heorder, hehi, hrest⟩ := registryWfFrom_cons.mp h
    have hapart := hno e (List.mem_cons_self ..)
    simp only [Binding.overlaps, Bool.and_eq_false_iff, decide_eq_false_iff_not, Nat.not_le] at hapart
    rw [insertBinding]
    split
    · exact registryWfFrom_cons.mpr ⟨hlo, horder, hhi,
        registryWfFrom_cons.mpr ⟨by omega, heorder, hehi, hrest⟩⟩
    · exact registryWfFrom_cons.mpr ⟨helo, heorder, hehi,
        ih (by omega) (fun c hc => hno c (List.mem_cons_of_mem _ hc)) hrest⟩

/-- Storing cells of other addresses leaves the byte at an address. -/
theorem memory_read_writeAll_other {a : Nat} {cells : List Host.Cell} : ∀ {m : List Host.Cell},
    (∀ c ∈ cells, c.1 ≠ a) → Memory.read (Memory.writeAll m cells) a = Memory.read m a := by
  induction cells with
  | nil => exact fun _ => rfl
  | cons cell cells ih =>
    obtain ⟨k, v⟩ := cell
    intro m h
    rw [Memory.writeAll, ih fun c hc => h c (List.mem_cons_of_mem _ hc)]
    exact memory_read_write_other m k a v (Ne.symm (h (k, v) (List.mem_cons_self ..)))

theorem mem_inside {c : Host.Cell} {cells : List Host.Cell} {lo hi : Nat} (h : c ∈ Memory.inside cells lo hi) :
    lo ≤ c.1 ∧ c.1 ≤ hi := by
  simpa using (List.mem_filter.mp h).2

theorem memory_wf_placeCells {d : Device} {mem : List Host.Cell} (hm : Memory.wf mem = true) :
    Memory.wf (placeCells d mem) = true := by
  refine memory_wf_writeAll _ (fun c hc => ?_) (memory_wf_outside _ _ hm)
  have hstop : d.binding.stop.toNat < 65536 := d.binding.stop.isLt
  have hc := (mem_inside hc).2
  omega

/-- Outside the device's range the bytes are as before. -/
theorem memory_read_placeCells_other {d : Device} {mem : List Host.Cell} {a : Addr} (h : d.binding.owns a = false) :
    Memory.read (placeCells d mem) a.toNat = Memory.read mem a.toNat := by
  have hout : ¬ (d.binding.start.toNat ≤ a.toNat ∧ a.toNat ≤ d.binding.stop.toNat) := by
    rw [← owns_iff, h]
    exact Bool.false_ne_true
  have hcells : ∀ c ∈ Memory.inside d.cells d.binding.start.toNat d.binding.stop.toNat, c.1 ≠ a.toNat := by
    rintro c hc he
    rw [← he] at hout
    exact hout (mem_inside hc)
  rw [placeCells, memory_read_writeAll_other hcells, memory_read_outside hout]

/-- In the device's range the bytes are those it came with. -/
theorem memory_read_placeCells {d : Device} {mem : List Host.Cell} (hm : Memory.wf mem = true)
    (hc : Memory.wf d.cells = true) {a : Addr} (h : d.binding.owns a = true) :
    Memory.read (placeCells d mem) a.toNat = Memory.read d.cells a.toNat := by
  have hin := owns_iff.mp h
  rw [placeCells, memory_read_writeAll (memory_wf_inside _ _ hc) (memory_wf_outside _ _ hm), memory_read_inside hin,
    memory_read_outside_in hin]
  split
  · next hx => exact hx.symm
  · rfl

/-- The owners of an address agree in two registries in order that have the same bindings over it. -/
theorem lookup_congr {cfg : Config} {b b' : Bus} (h : registryWf cfg b.registry = true)
    (h' : registryWf cfg b'.registry = true) {addr : Addr}
    (hmem : ∀ e : Binding, e.owns addr = true → (e ∈ b'.registry ↔ e ∈ b.registry)) :
    b'.lookup addr = b.lookup addr := by
  refine Option.ext fun e => ?_
  rw [lookup_eq_some_iff h, lookup_eq_some_iff h']
  exact ⟨fun ⟨hm, ho⟩ => ⟨(hmem e ho).mp hm, ho⟩, fun ⟨hm, ho⟩ => ⟨(hmem e ho).mpr hm, ho⟩⟩

/-- The bus with a device registered. -/
def Bus.registered (b : Bus) (d : Device) : Bus :=
  { registry := insertBinding d.binding b.registry, mem := placeCells d b.mem }

section Registered
variable {cfg : Config} {b : Bus} {d : Device}

theorem registryWf_registered (hreg : registryWf cfg b.registry = true) (h : ¬ Conflicts cfg b.registry d.binding) :
    registryWf cfg (b.registered d).registry = true := by
  have haccepted := (accepted_iff hreg).mpr h
  rw [Bool.and_eq_true, fits_iff, Bool.not_eq_true', List.any_eq_false] at haccepted
  obtain ⟨⟨horder, hlo, hhi⟩, hno⟩ := haccepted
  exact registryWfFrom_insertBinding horder hhi hlo (fun e he => Bool.eq_false_iff.mpr (hno e he)) hreg

variable (hreg' : registryWf cfg (b.registered d).registry = true) {a : Addr}
include hreg'

theorem lookup_registered_same (ha : d.binding.owns a = true) : (b.registered d).lookup a = some d.binding :=
  (lookup_eq_some_iff hreg').mpr ⟨mem_insertBinding.mpr (.inl rfl), ha⟩

theorem lookup_registered_other (hreg : registryWf cfg b.registry = true) (ha : d.binding.owns a = false) :
    (b.registered d).lookup a = b.lookup a := by
  refine lookup_congr hreg hreg' fun e he => mem_insertBinding.trans (or_iff_right ?_)
  rintro rfl
  rw [ha] at he
  cases he

end Registered

/-! ## Unregistering a device -/

theorem registryWfFrom_mono {hi lo lo' : Nat} (hle : lo' ≤ lo) {ds : List Binding} (h : registryWfFrom hi lo ds = true) :
    registryWfFrom hi lo' ds = true := by
  cases ds with
  | nil => rfl
  | cons d ds =>
    obtain ⟨hlo, hrest⟩ := registryWfFrom_cons.mp h
    exact registryWfFrom_cons.mpr ⟨Nat.le_trans hle hlo, hrest⟩

theorem registryWfFrom_removeBinding {hi id : Nat} {ds : List Binding} : ∀ {lo : Nat},
    registryWfFrom hi lo ds = true → registryWfFrom hi lo (removeBinding id ds) = true := by
  induction ds with
  | nil => exact fun h => h
  | cons d ds ih =>
    intro lo h
    obtain ⟨hlo, horder, hhi, hrest⟩ := registryWfFrom_cons.mp h
    rw [removeBinding]
    split
    · exact registryWfFrom_mono (by omega) hrest
    · exact registryWfFrom_cons.mpr ⟨hlo, horder, hhi, ih hrest⟩

/-- The first binding of an identity goes, and no other: the ranges being apart, it stands there once. -/
theorem mem_removeBinding {hi id : Nat} {e x : Binding} {ds : List Binding} : ∀ {lo : Nat},
    registryWfFrom hi lo ds = true → ds.find? (fun d => d.id == id) = some e →
    (x ∈ removeBinding id ds ↔ x ∈ ds ∧ x ≠ e) := by
  induction ds with
  | nil => exact fun _ hf => nomatch hf
  | cons d ds ih =>
    intro lo h hf
    obtain ⟨-, horder, -, hrest⟩ := registryWfFrom_cons.mp h
    rw [List.find?_cons] at hf
    rw [removeBinding]
    by_cases hid : d.id = id
    · rw [beq_iff_eq.mpr hid] at hf
      cases hf
      rw [if_pos hid, List.mem_cons]
      have hnot : e ∉ ds := fun hd => by
        obtain ⟨hstart, -⟩ := registryWfFrom_bounds hrest hd
        omega
      exact ⟨fun hx => ⟨.inr hx, fun he => hnot (he ▸ hx)⟩, fun ⟨hx, hne⟩ => hx.resolve_left hne⟩
    · rw [beq_eq_false_iff_ne.mpr hid] at hf
      have hne : d ≠ e := fun he => hid (he ▸ beq_iff_eq.mp (List.find?_some (p := fun d : Binding => d.id == id) hf))
      rw [if_neg hid, List.mem_cons, List.mem_cons, ih hrest hf, or_and_right]
      exact or_congr_left ⟨fun hx => ⟨hx, hx ▸ hne⟩, And.left⟩

/-- The bus with the binding of an identity taken out, and the bytes of its range. -/
def Bus.unregistered (b : Bus) (id : Nat) (e : Binding) : Bus :=
  { registry := removeBinding id b.registry, mem := Memory.outside b.mem e.start.toNat e.stop.toNat }

section Unregistered
variable {cfg : Config} {b : Bus} {id : Nat} {e : Binding} (hreg : registryWf cfg b.registry = true)
  (hf : b.registry.find? (fun d => d.id == id) = some e) {a : Addr}
include hreg

theorem registryWf_unregistered : registryWf cfg (b.unregistered id e).registry = true :=
  registryWfFrom_removeBinding hreg

include hf

/-- The range becomes a hole. -/
theorem lookup_unregistered_same (ha : e.owns a = true) : (b.unregistered id e).lookup a = none := by
  refine Option.eq_none_iff_forall_ne_some.mpr fun x hx => ?_
  obtain ⟨hmem, hxa⟩ := mem_and_owns_of_lookup hx
  obtain ⟨hx, hne⟩ := (mem_removeBinding hreg hf).mp hmem
  exact hne (registryWfFrom_owner_unique hreg hx (List.mem_of_find?_eq_some hf) hxa ha)

theorem lookup_unregistered_other (ha : e.owns a = false) : (b.unregistered id e).lookup a = b.lookup a := by
  refine lookup_congr hreg (registryWf_unregistered hreg) fun x hx => (mem_removeBinding hreg hf).trans ?_
  refine and_iff_left fun he => ?_
  rw [he, ha] at hx
  cases hx

end Unregistered

theorem read_of_peek {b : Bus} {addr : Addr} {x : Byte} (h : b.peek addr = some x) :
    Memory.read b.mem addr.toNat = x := by
  unfold Bus.peek at h
  split at h
  · cases h
  · split at h <;> cases h <;> rfl

/-- Settles O59: a call is refused exactly where the ranges conflict; an accepted one leaves them in order, so each
address has its owner from the list of bindings, and its byte from the cells that were put in or taken out. -/
theorem registryCallsKeepTheRanges : Obligations.RegistryCallsKeepTheRanges := by
  intro s d hbus
  obtain ⟨hm, hreg⟩ := Bool.and_eq_true_iff.mp hbus
  refine ⟨?refused, ?accepted, ?notFound, ?found⟩
  case refused =>
    intro h
    exact if_neg fun haccepted => (accepted_iff hreg).mp haccepted h
  case accepted =>
    intro h
    have hreg' : registryWf s.cfg (s.bus.registered d).registry = true := registryWf_registered hreg h
    refine ⟨{ s with bus := s.bus.registered d }, if_pos ((accepted_iff hreg).mpr h),
      Bool.and_eq_true_iff.mpr ⟨memory_wf_placeCells hm, hreg'⟩, rfl, rfl, rfl,
      fun a => lookup_registered_same hreg', ?bytes, ?others⟩
    case bytes =>
      intro a ha hcells hkind
      rw [peek_of_reference (lookup_registered_same hreg' ha) hkind]
      exact congrArg some (memory_read_placeCells hm hcells ha)
    case others =>
      intro a ha
      have hl := lookup_registered_other hreg' hreg ha
      exact ⟨hl, peek_congr hl (memory_read_placeCells_other ha)⟩
  case notFound =>
    intro id h
    have hnone : s.bus.registry.find? (fun e => e.id == id) = none :=
      List.find?_eq_none.mpr fun e he => mt beq_iff_eq.mp (h e he)
    simp only [unregisterDevice, hnone]
  case found =>
    intro id e hf
    have hback : unregisteredDevice id s =
        some { binding := e, cells := Memory.inside s.bus.mem e.start.toNat e.stop.toNat } := by
      simp only [unregisteredDevice, hf, Option.map_some]
    refine ⟨⟨_, hback, rfl, memory_wf_inside _ _ hm, ?back⟩,
      { s with bus := s.bus.unregistered id e }, ?done,
      Bool.and_eq_true_iff.mpr ⟨memory_wf_outside _ _ hm, registryWf_unregistered hreg⟩, rfl, rfl, rfl,
      fun a => lookup_unregistered_same hreg hf, ?others⟩
    case back =>
      intro a x ha hx
      rw [memory_read_inside (owns_iff.mp ha), read_of_peek hx]
    case done =>
      simp only [unregisterDevice, hf]
      rfl
    case others =>
      intro a ha
      have hl := lookup_unregistered_other hreg hf ha
      have hout : ¬ (e.start.toNat ≤ a.toNat ∧ a.toNat ≤ e.stop.toNat) := by
        rw [← owns_iff, ha]
        exact Bool.false_ne_true
      exact ⟨hl, peek_congr hl (memory_read_outside hout)⟩

end Sys2Proof.Machine
end

section
/-! Compares, bit tests and the bit instructions (47_compare_bittest.md), from what holds of every read-class and
read-modify-write instruction. -/

namespace Sys2Proof.Machine

/-! ## Compares and BIT -/

/-- `Compare` writes N, Z and C of the difference (R240). -/
theorem compare_eq_compared (cpu : CpuState) (r m : Byte) : cpu.compare r m = Claims.compared cpu r m := by
  rw [compare_eq, Claims.compared, bit7_eq_decide, BitVec.toNat_ofNat]

/-- N, Z and C go to the same fields before and after the fetch's own are set. -/
theorem compare_fetched (cpu : CpuState) (i : Instr) (r m : Byte) :
    (cpu.fetched i).compare r m = { Claims.compared cpu r m with
      pc := (cpu.fetched i).pc, ir := (cpu.fetched i).ir, cycles := (cpu.fetched i).cycles } := by
  rw [← compare_eq_compared]
  rfl

theorem exec_cmp (o : ReadOperand) (s : State) :
    exec (.cmp o) s = runRead (.cmp o) o s fun v cpu => cpu.compare cpu.a v := rfl

theorem exec_cpx (o : ReadOperand) (s : State) :
    exec (.cpx o) s = runRead (.cpx o) o s fun v cpu => cpu.compare cpu.x v := rfl

theorem exec_cpy (o : ReadOperand) (s : State) :
    exec (.cpy o) s = runRead (.cpy o) o s fun v cpu => cpu.compare cpu.y v := rfl

theorem exec_bit (o : ReadOperand) (s : State) :
    exec (.bit o) s = runRead (.bit o) o s fun v cpu => cpu.bitTest o v := rfl

/-- Settles O30: each compare is a read-class instruction of its table, with a register that the fetch left alone. -/
theorem comparesSetFlagsOnly : Obligations.ComparesSetFlagsOnly := by
  intro s
  exact ⟨fetchFaults_of_state s,
    readForms_of_formTable cmp_forms (exec_cmp · s) fun o m => compare_fetched s.cpu (.cmp o) s.cpu.a m,
    readForms_of_formTable cpx_forms (exec_cpx · s) fun o m => compare_fetched s.cpu (.cpx o) s.cpu.x m,
    readForms_of_formTable cpy_forms (exec_cpy · s) fun o m => compare_fetched s.cpu (.cpy o) s.cpu.y m⟩

/-- Settles O31: BIT is a read-class instruction of its table; its flags are those of the immediate form or of a memory
form. -/
theorem bitTestsTheOperand : Obligations.BitTestsTheOperand := by
  intro s
  refine ⟨fetchFaults_of_state s, readForms_of_formTable bit_forms (exec_bit · s) fun o v => ?_⟩
  cases o with
  | imm _ => rfl
  | mem m =>
    have hk : (ReadOperand.mem m).kind ≠ .imm := memMode_kind_ne_imm m
    simp only [hk, if_false]
    rfl

/-! ## TSB and TRB -/

theorem exec_tsb (m : MemMode) (s : State) :
    exec (.tsb m) s = runModify (.tsb m) m s (fun v cpu => v ||| cpu.a) fun v cpu => cpu.setZMask v := rfl

theorem exec_trb (m : MemMode) (s : State) :
    exec (.trb m) s = runModify (.trb m) m s (fun v cpu => v &&& (cpu.a ^^^ 0xFF#8)) fun v cpu => cpu.setZMask v := rfl

/-- The two modes of a table of TSB or TRB. -/
theorem kind_of_testOpcode {cfg : Config} {zp abs op : Byte} {k : ModeKind}
    (h : Claims.opcodeOf cfg [] [(.zp, zp), (.abs, abs)] k = some op) : k = .zp ∨ k = .abs := by
  have hmem := mem_of_lookup (lookup_of_opcodeOf h)
  simp only [List.nil_append, List.mem_cons, Prod.mk.injEq, List.not_mem_nil, or_false] at hmem
  exact hmem.imp And.left And.left

/-- All the forms of a read-modify-write mnemonic on memory that sets Z from A and the byte read. -/
theorem testForms_of_formTable {s : State} {build : MemMode → Instr} {zp abs : Byte} {w : Byte → Byte}
    {f : Byte → CpuState → Byte} (ht : FormTable memShape build [] [(.zp, zp), (.abs, abs)])
    (hbase : ∀ m, Claims.base s.cfg (build m) = Claims.modifyCycles 7 m.kind)
    (hexec : ∀ m, exec (build m) s = runModify (build m) m s f fun v cpu => cpu.setZMask v)
    (hw : ∀ m v, f v (s.cpu.fetched (build m)) = w v) : Claims.testForms s build zp abs w := by
  refine ⟨ht.wellFormed_eq s.cfg, ht.illegalOnNmos s.cfg, fun m op h => ⟨?cost, ?modifies⟩⟩
  case cost =>
    have hwf : (build m).wellFormed s.cfg = true := by rw [ht.wellFormed_eq]; exact Option.isSome_iff_exists.mpr ⟨op, h⟩
    rw [baseCyclesByMode s.cfg (build m) hwf, hbase]
    rcases kind_of_testOpcode h with hk | hk <;> rw [hk] <;> rfl
  case modifies =>
    exact modifies_of_runModify (ht.coded h) ((ht.opcode m).trans (lookup_of_opcodeOf h)) (ht.operandBytes m) (hexec m)
      (hw m) fun _ => rfl

/-- Settles O32: both are read-modify-write instructions of their tables; A is as before the fetch. -/
theorem tsbAndTrbChangeTheBitsOfA : Obligations.TsbAndTrbChangeTheBitsOfA := by
  intro s
  exact ⟨fetchFaults_of_state s,
    testForms_of_formTable tsb_forms (fun _ => rfl) (exec_tsb · s) fun _ _ => rfl,
    testForms_of_formTable trb_forms (fun _ => rfl) (exec_trb · s) fun _ _ => rfl⟩

/-! ## RMB and SMB -/

theorem bitMask_getLsbD (b k : Nat) (hk : k < 8) : (bitMask b).getLsbD k = decide (k = b) := by
  have hmask : bitMask b = BitVec.twoPow 8 b := (BitVec.twoPow_eq 8 b).symm
  rw [hmask, BitVec.getLsbD_twoPow]
  by_cases h : b = k
  · simp [h, hk]
  · simp [h, Ne.symm h]

theorem byte_ones_getLsbD (k : Nat) (hk : k < 8) : (0xFF#8).getLsbD k = true := by
  have hones : (0xFF#8) = BitVec.allOnes 8 := rfl
  rw [hones, BitVec.getLsbD_allOnes]
  exact decide_eq_true hk

theorem clearBit_getLsbD (v : Byte) (b k : Nat) (hk : k < 8) :
    (v &&& (bitMask b ^^^ 0xFF#8)).getLsbD k = if k = b then false else v.getLsbD k := by
  rw [BitVec.getLsbD_and, BitVec.getLsbD_xor, bitMask_getLsbD b k hk, byte_ones_getLsbD k hk]
  by_cases h : k = b <;> simp [h]

theorem setBit_getLsbD (v : Byte) (b k : Nat) (hk : k < 8) :
    (v ||| bitMask b).getLsbD k = if k = b then true else v.getLsbD k := by
  rw [BitVec.getLsbD_or, bitMask_getLsbD b k hk]
  by_cases h : k = b <;> simp [h]

theorem exec_rmb (b : Fin 8) (zp : Byte) (s : State) :
    exec (Instr.rmb b zp) s = runModify (Instr.rmb b zp) (.zp zp) s (fun v _ => v &&& (bitMask b ^^^ 0xFF#8))
      fun _ cpu => cpu := by
  match b with
  | 0 | 1 | 2 | 3 | 4 | 5 | 6 | 7 => rfl

theorem exec_smb (b : Fin 8) (zp : Byte) (s : State) :
    exec (Instr.smb b zp) s = runModify (Instr.smb b zp) (.zp zp) s (fun v _ => v ||| bitMask b) fun _ cpu => cpu := by
  match b with
  | 0 | 1 | 2 | 3 | 4 | 5 | 6 | 7 => rfl

section BitOps
variable {cfg : Config} {i : Instr} {op : Byte} {mode : ModeKind} {bytes : List Byte}

/-- With CMOS_BIT_OPS a bit instruction takes 5 cycles and has no page penalty (R122). -/
theorem bitRow_baseCycles (hrow : BitRow i op mode bytes) (hop : op.toNat % 16 = 0x7 ∨ op.toNat % 16 = 0xF)
    (h : cfg.hasBitOps = true) : i.baseCycles cfg = 5 := by
  rw [baseCycles_of_opcode hrow.opcode, descOf_bitOp h hop, bitOpCell_baseCycles]

theorem bitRow_pagePenalty (hrow : BitRow i op mode bytes) (hop : op.toNat % 16 = 0x7 ∨ op.toNat % 16 = 0xF)
    (h : cfg.hasBitOps = true) : i.pagePenalty cfg = false := by
  rw [Instr.pagePenalty, Instr.desc?, hrow.opcode, Option.map_some, descOf_bitOp h hop]
  exact bitOpCell_pagePenalty op

/-- A bit opcode without the parameter (R121), or on NMOS (R120). -/
theorem bitOpcode_of_low (hop : op.toNat % 16 = 0x7 ∨ op.toNat % 16 = 0xF) (hill : op ∈ nmosIllegal) :
    Claims.bitOpcode cfg op :=
  ⟨fun hc hb => (nopOne_coded hc (isNop1_iff.mpr (.inr (.inr ⟨hop, hb⟩)))).2,
    illegalOnNmos_of_subset fun _ h => (List.mem_singleton.mp h) ▸ hill⟩

end BitOps

theorem rmbOpcode_illegal (b : Fin 8) : rmbOpcode b ∈ nmosIllegal := by revert b; decide
theorem smbOpcode_illegal (b : Fin 8) : smbOpcode b ∈ nmosIllegal := by revert b; decide
theorem bbrOpcode_illegal (b : Fin 8) : bbrOpcode b ∈ nmosIllegal := by revert b; decide
theorem bbsOpcode_illegal (b : Fin 8) : bbsOpcode b ∈ nmosIllegal := by revert b; decide

/-- Settles O33: both are read-modify-write instructions of their rows, and their masks clear or set the one bit. -/
theorem rmbAndSmbChangeOneBit : Obligations.RmbAndSmbChangeOneBit := by
  intro s b zp
  refine ⟨fetchFaults_of_state s, bitOpcode_of_low (.inl (rmbOpcode_low b)) (rmbOpcode_illegal b),
    bitOpcode_of_low (.inl (smbOpcode_low b)) (smbOpcode_illegal b), fun hc hb => ?_⟩
  have h := hasBitOps_iff.mpr ⟨hc, hb⟩
  have hrmb := rmb_row b zp
  have hsmb := smb_row b zp
  exact ⟨fun v => v &&& (bitMask b ^^^ 0xFF#8), fun v => v ||| bitMask b,
    fun v k hk => clearBit_getLsbD v b k hk, fun v k hk => setBit_getLsbD v b k hk,
    bitRow_baseCycles hrmb (.inl (rmbOpcode_low b)) h, bitRow_baseCycles hsmb (.inl (smbOpcode_low b)) h,
    bitRow_pagePenalty hrmb (.inl (rmbOpcode_low b)) h, bitRow_pagePenalty hsmb (.inl (smbOpcode_low b)) h,
    modifies_of_runModify (rmb_coded h b zp) hrmb.opcode hrmb.operandBytes (exec_rmb b zp s) (fun _ => rfl) fun _ => rfl,
    modifies_of_runModify (smb_coded h b zp) hsmb.opcode hsmb.operandBytes (exec_smb b zp s) (fun _ => rfl) fun _ => rfl⟩

end Sys2Proof.Machine
end

section
/-! Branches, jumps and subroutines (48_control.md): the state that a branch leaves as numbers (R156, R157, R162), the load
of PC by JMP, and the pushes and pulls of JSR and RTS as accesses in order. -/

namespace Sys2Proof.Machine

/-! ## Branches -/

theorem sext_toNat (off : Byte) : ((sext off).toNat : Int) = off.toInt % 65536 := by
  rw [sext, BitVec.signExtend, BitVec.toNat_ofInt]
  omega

/-- The target of a branch as a number (R156). -/
theorem add_sext_toNat (next : Addr) (off : Byte) :
    ((next + sext off).toNat : Int) = ((next.toNat : Int) + off.toInt) % 65536 := by
  have hoff := sext_toNat off
  rw [BitVec.toNat_add]
  omega

/-- The extra cycles of a branch as numbers (R162). -/
theorem branchIf_extra (taken : Bool) (off : Byte) (cpu : CpuState) :
    (branchIf taken off cpu).extra =
      if taken then (if (cpu.pc + sext off).toNat / 256 = cpu.pc.toNat / 256 then 1 else 2) else 0 := by
  cases taken with
  | false => rfl
  | true =>
    simp only [branchIf, if_true, crosses_iff]
    split <;> simp_all

/-- A completed branch is in sequence or at its target, at the cost that goes with it. -/
theorem branched_of_branchIf {s : State} {i : Instr} {op : Byte} {base : Nat} (off : Byte) (taken : Bool) (b : Bus)
    (hop : i.opcode? = some op) (hbase : i.baseCycles s.cfg = base) :
    Claims.branched s op i.length base off taken b (s.completed i (branchIf taken off (s.cpu.fetched i)) b) := by
  have hextra := branchIf_extra taken off (s.cpu.fetched i)
  refine ⟨(s.cpu.fetched i).pc, (s.cpu.fetched i).pc + sext off, ?_, add_sext_toNat _ off, ?_⟩
  · rw [fetched_pc, BitVec.toNat_add, BitVec.toNat_ofNat]
    exact Nat.add_mod_mod ..
  · rw [State.completed, hextra, hbase]
    cases taken <;> simp [branchIf, CpuState.fetched, hop, Nat.add_assoc]

/-- A relative branch is a coded instruction of two bytes and 2 cycles that makes no access. -/
theorem branches_of_runBranch {s : State} {c : Byte → Instr} {op : Byte} {off : Byte} {cond : CpuState → Bool}
    (hcell : descOf s.cfg op = Desc.rel c 2) (hop : (c off).opcode? = some op) (hbytes : (c off).operandBytes = [off])
    (hexec : exec (c off) s = runBranch (c off) cond off s) {taken : Bool}
    (htaken : cond (s.cpu.fetched (c off)) = taken) : Claims.branches s (c off) op off taken := by
  subst htaken
  have hlength : (c off).length = 2 := by rw [Instr.length, hbytes]; rfl
  have hcost : (c off).baseCycles s.cfg = 2 :=
    (baseCycles_of_opcode hop s.cfg).trans (congrArg Desc.baseCycles hcell)
  refine ⟨coded_of_rel hcell hop hbytes, _, hexec.trans (runInstr_ok rfl), ?_⟩
  have hbranch := branched_of_branchIf off (cond (s.cpu.fetched (c off))) s.bus hop hcost
  rwa [hlength] at hbranch

theorem exec_bpl (off : Byte) (s : State) : exec (.bpl off) s = runBranch (.bpl off) (fun cpu => !cpu.n) off s := rfl
theorem exec_bmi (off : Byte) (s : State) : exec (.bmi off) s = runBranch (.bmi off) (fun cpu => cpu.n) off s := rfl
theorem exec_bvc (off : Byte) (s : State) : exec (.bvc off) s = runBranch (.bvc off) (fun cpu => !cpu.v) off s := rfl
theorem exec_bvs (off : Byte) (s : State) : exec (.bvs off) s = runBranch (.bvs off) (fun cpu => cpu.v) off s := rfl
theorem exec_bcc (off : Byte) (s : State) : exec (.bcc off) s = runBranch (.bcc off) (fun cpu => !cpu.c) off s := rfl
theorem exec_bcs (off : Byte) (s : State) : exec (.bcs off) s = runBranch (.bcs off) (fun cpu => cpu.c) off s := rfl
theorem exec_bne (off : Byte) (s : State) : exec (.bne off) s = runBranch (.bne off) (fun cpu => !cpu.z) off s := rfl
theorem exec_beq (off : Byte) (s : State) : exec (.beq off) s = runBranch (.beq off) (fun cpu => cpu.z) off s := rfl
theorem exec_bra (off : Byte) (s : State) : exec (.bra off) s = runBranch (.bra off) (fun _ => true) off s := rfl

/-- Settles O34: each branch has one cell in both maps, BRA one on CMOS, and tests a flag that the fetch left alone. -/
theorem branchesTestOneFlag : Obligations.BranchesTestOneFlag := by
  intro s off
  have hcell {op : Byte} {d : Desc} (h : FixedCell op d) : descOf s.cfg op = d := h.descOf_eq s.cfg
  refine ⟨fetchFaults_of_state s,
    branches_of_runBranch (hcell ?bpl) rfl rfl (exec_bpl off s) rfl,
    branches_of_runBranch (hcell ?bmi) rfl rfl (exec_bmi off s) rfl,
    branches_of_runBranch (hcell ?bvc) rfl rfl (exec_bvc off s) rfl,
    branches_of_runBranch (hcell ?bvs) rfl rfl (exec_bvs off s) rfl,
    branches_of_runBranch (hcell ?bcc) rfl rfl (exec_bcc off s) rfl,
    branches_of_runBranch (hcell ?bcs) rfl rfl (exec_bcs off s) rfl,
    branches_of_runBranch (hcell ?bne) rfl rfl (exec_bne off s) rfl,
    branches_of_runBranch (hcell ?beq) rfl rfl (exec_beq off s) rfl,
    fun hc => branches_of_runBranch (descOf_cmos hc rfl) rfl rfl (exec_bra off s) rfl,
    illegalOnNmos_of_subset (by decide)⟩
  case bpl | bmi | bvc | bvs | bcc | bcs | bne | beq => exact ⟨rfl, rfl, rfl⟩

/-! ## Branches on a bit -/

theorem exec_bbr (b : Fin 8) (zp off : Byte) (s : State) :
    exec (Instr.bbr b zp off) s = runBitBranch (Instr.bbr b zp off) b false zp off s := by
  match b with
  | 0 | 1 | 2 | 3 | 4 | 5 | 6 | 7 => rfl

theorem exec_bbs (b : Fin 8) (zp off : Byte) (s : State) :
    exec (Instr.bbs b zp off) s = runBitBranch (Instr.bbs b zp off) b true zp off s := by
  match b with
  | 0 | 1 | 2 | 3 | 4 | 5 | 6 | 7 => rfl

/-- A branch on a bit reads its byte once and branches on it, or is abandoned. -/
theorem bitBranches_of_runBitBranch {s : State} {i : Instr} {op zp off : Byte} {b : Nat} {set : Bool}
    {taken : Byte → Bool} (hrow : BitRow i op .zprel [zp, off]) (hlow : op.toNat % 16 = 0xF)
    (h : s.cfg.hasBitOps = true) (hexec : exec i s = runBitBranch i b set zp off s)
    (htaken : ∀ v : Byte, (v.getLsbD b == set) = taken v) : Claims.bitBranches s i op zp off taken := by
  have hlength : i.length = 3 := by rw [Instr.length, hrow.operandBytes]; rfl
  have hcost := bitRow_baseCycles hrow (.inr hlow) h
  have hstore := memRead_sameStore (zext zp) s.bus
  rw [Claims.bitBranches, ← zext_eq_ofNat, hexec]
  refine ⟨hrow.coded rfl (.inr hlow) h, ?_, ?_⟩
  · intro v bus hv
    rw [hv] at hstore
    refine ⟨peek_sameStore hstore, _, runInstr_ok (by rw [hv, andThen_ok]), ?_⟩
    rw [← hlength, ← htaken]
    exact branched_of_branchIf off _ bus hrow.opcode hcost
  · intro f bus hf
    rw [hf] at hstore
    exact ⟨runInstr_raised (by rw [hf, andThen_raised]), ⟨_, memRead_raised hf⟩, peek_sameStore hstore⟩

/-- Settles O35: both branch on a bit by their rows, BBR when it is 0 and BBS when it is 1. -/
theorem bbrAndBbsTestOneBit : Obligations.BbrAndBbsTestOneBit := by
  intro s b zp off
  refine ⟨fetchFaults_of_state s, bitOpcode_of_low (.inr (bbrOpcode_low b)) (bbrOpcode_illegal b),
    bitOpcode_of_low (.inr (bbsOpcode_low b)) (bbsOpcode_illegal b), fun hc hb => ?_⟩
  have h := hasBitOps_iff.mpr ⟨hc, hb⟩
  exact ⟨bitBranches_of_runBitBranch (bbr_row b zp off) (bbrOpcode_low b) h (exec_bbr b zp off s) fun _ => beq_false _,
    bitBranches_of_runBitBranch (bbs_row b zp off) (bbsOpcode_low b) h (exec_bbs b zp off s) fun _ => beq_true _⟩

/-! ## JMP -/

/-- A completed instruction that loads PC, and at most SP besides. -/
theorem completed_eq_jumped {s : State} {i : Instr} {op : Byte} {cost : Nat} {pc : Addr} {sp : Byte} {b : Bus}
    (hop : i.opcode? = some op) (hcost : i.baseCycles s.cfg = cost) :
    s.completed i { cpu := { s.cpu.fetched i with pc := pc, sp := sp } } b = Claims.jumped s op cost pc sp b := by
  simp only [State.completed, Claims.jumped, hcost, Nat.add_zero, CpuState.fetched, hop, Option.getD_some]

theorem exec_jmp (m : MemMode) (s : State) :
    exec (.jmp m) s = runInstr (.jmp m) s fun cpu b =>
      (resolve s.cfg cpu m b).andThen fun r b => .ok { cpu := { cpu with pc := r.ea } } b := rfl

/-- JMP in a mode: the address resolved, or the step abandoned; nothing is stored. -/
theorem jmp_outcomes {s : State} {m : MemMode} {op : Byte} {cost : Nat} (hop : (Instr.jmp m).opcode? = some op)
    (hcost : (Instr.jmp m).baseCycles s.cfg = cost) :
    (∀ r b, resolve s.cfg s.cpu m s.bus = .ok r b → Claims.sameBytes s.bus b ∧
      exec (.jmp m) s = .next (Claims.jumped s op cost r.ea s.cpu.sp b)) ∧
    (∀ f b, resolve s.cfg s.cpu m s.bus = .raised f b →
      exec (.jmp m) s = .next (s.abandon f b) ∧ Claims.readFault f ∧ Claims.sameBytes s.bus b) := by
  have hstore := resolve_sameStore s.cfg s.cpu m s.bus
  rw [exec_jmp]
  constructor
  · intro r b hr
    rw [hr] at hstore
    rw [runInstr_ok (e := { cpu := { s.cpu.fetched (.jmp m) with pc := r.ea } }) (by rw [resolve_fetched, hr, andThen_ok])]
    exact ⟨peek_sameStore hstore, congrArg _ (completed_eq_jumped (s := s) hop hcost)⟩
  · intro f b hr
    rw [hr] at hstore
    exact ⟨runInstr_raised (by rw [resolve_fetched, hr, andThen_raised]), resolve_raised hr, peek_sameStore hstore⟩

/-- Settles O36: each mode of the table resolves by its own rule, abs without an access. -/
theorem jmpLoadsThePc : Obligations.JmpLoadsThePc := by
  intro s w
  obtain ⟨habs, -⟩ := jmp_outcomes (s := s) (m := .abs w) rfl (baseCyclesByMode s.cfg (.jmp (.abs w)) rfl)
  obtain ⟨hind, hindFault⟩ := jmp_outcomes (s := s) (m := .ind w) rfl (baseCyclesByMode s.cfg (.jmp (.ind w)) rfl)
  refine ⟨fetchFaults_of_state s, jmp_forms.coded rfl, (habs _ _ rfl).2, jmp_forms.coded rfl, hind, hindFault,
    fun hc => ?_, jmp_forms.illegalOnNmos s.cfg⟩
  have hopcode : Claims.opcodeOf s.cfg [(.abs, 0x4C), (.ind, 0x6C)] [(.iax, 0x7C)] .iax = some 0x7C#8 := by
    rw [opcodeOf_cmos hc]
    rfl
  have hwf : (Instr.jmp (.iax w)).wellFormed s.cfg = true := by
    rw [jmp_forms.wellFormed_eq]
    exact Option.isSome_iff_exists.mpr ⟨_, hopcode⟩
  exact ⟨jmp_forms.coded hopcode, jmp_outcomes rfl (baseCyclesByMode s.cfg _ hwf)⟩

end Sys2Proof.Machine
end

section
/-! Accesses in order (R18, R96): the pushes and pulls of one instruction as the writes and reads of the stack page that
they make, and a byte written to a RAM stack as the byte that is read again. -/

namespace Sys2Proof.Machine

theorem andThen_assoc {α β γ : Type} (r : BusRes α) (k : α → Bus → BusRes β) (l : β → Bus → BusRes γ) :
    (r.andThen k).andThen l = r.andThen fun v b => (k v b).andThen l := by
  cases r <;> rfl

/-! ## Writes in order -/

theorem writesInOrder_nil (b : Bus) : Claims.writesInOrder [] b = .ok () b := rfl

theorem writesInOrder_cons (addr : Addr) (v : Byte) (more : List (Addr × Byte)) (b : Bus) :
    Claims.writesInOrder ((addr, v) :: more) b =
      (memWrite addr v b).andThen fun _ b => Claims.writesInOrder more b := by
  rw [Claims.writesInOrder]
  cases memWrite addr v b <;> rfl

/-- Writes in order leave every other stored byte, whether or not they all were made. -/
theorem writesInOrder_peek_other {addr : Addr} (writes : List (Addr × Byte)) :
    ∀ b : Bus, addr ∉ writes.map Prod.fst → (Claims.writesInOrder writes b).bus.peek addr = b.peek addr := by
  induction writes with
  | nil => exact fun _ _ => rfl
  | cons write more ih =>
    intro b h
    obtain ⟨hhead, hmore⟩ := not_or.mp (mt List.mem_cons.mpr h)
    have hother := busWrite_peek_other b write.1 addr write.2 true hhead
    rw [writesInOrder_cons, memWrite]
    cases hw : b.write write.1 write.2 true with
    | ok _ b1 =>
      rw [hw] at hother
      rw [andThen_ok, ih b1 hmore]
      exact hother
    | raised f b1 =>
      rw [hw] at hother
      exact hother

theorem sameBytesBut_of_writesInOrder {writes : List (Addr × Byte)} {b b' : Bus}
    (h : Claims.writesInOrder writes b = .ok () b') : Claims.sameBytesBut (writes.map Prod.fst) b b' := by
  intro addr haddr
  have hother := writesInOrder_peek_other writes b haddr
  rwa [h] at hother

/-- Writes in order raise write faults of their addresses. -/
theorem writeFault_of_writesInOrder {f : Fault} {b' : Bus} {writes : List (Addr × Byte)} :
    ∀ {b : Bus}, Claims.writesInOrder writes b = .raised f b' → Claims.writeFault (writes.map Prod.fst) f := by
  induction writes with
  | nil => exact nofun
  | cons write more ih =>
    intro b h
    rw [writesInOrder_cons] at h
    rcases andThen_eq_raised.mp h with h | ⟨_, b1, -, h⟩
    · exact ⟨write.1, List.mem_cons_self, memWrite_raised h⟩
    · obtain ⟨addr, hmem, hfault⟩ := ih h
      exact ⟨addr, List.mem_cons_of_mem _ hmem, hfault⟩

/-- Writes of reference RAM at different addresses are all made, and each byte stays as it was written (R86, R95). -/
theorem writesInOrder_of_writable {writes : List (Addr × Byte)} :
    ∀ {b : Bus}, Memory.wf b.mem = true → (∀ write ∈ writes, b.writable write.1) → (writes.map Prod.fst).Nodup →
      ∃ b', Claims.writesInOrder writes b = .ok () b' ∧ ∀ write ∈ writes, b'.peek write.1 = some write.2 := by
  induction writes with
  | nil => exact fun {b} _ _ _ => ⟨b, rfl, fun _ h => nomatch h⟩
  | cons write more ih =>
    intro b hm hwritable hnodup
    obtain ⟨hhead, hmore⟩ := List.forall_mem_cons.mp hwritable
    obtain ⟨hfresh, hnodup⟩ := List.nodup_cons.mp hnodup
    have hwrite := memWrite_of_writable hhead write.2
    obtain ⟨b', hwrites, hpeek⟩ :=
      ih (b := { b with mem := Memory.write b.mem write.1.toNat write.2 }) (memory_wf_write _ _ hm) hmore hnodup
    refine ⟨b', ?_, List.forall_mem_cons.mpr ⟨?_, hpeek⟩⟩
    · rw [writesInOrder_cons, hwrite, andThen_ok, hwrites]
    · rw [sameBytesBut_of_writesInOrder hwrites _ hfresh, peek_write_same hhead write.2 hm]

/-! ## Reads in order -/

theorem readsInOrder_nil (b : Bus) : Claims.readsInOrder [] b = .ok [] b := rfl

theorem readsInOrder_of_peek {addrs : List Addr} {b : Bus} : ∀ {vs : List Byte}, addrs.map b.peek = vs.map some →
    Claims.readsInOrder addrs b = .ok vs b := by
  induction addrs with
  | nil =>
    intro vs h
    rw [List.map_eq_nil_iff.mp h.symm]
    rfl
  | cons addr more ih =>
    intro vs h
    obtain ⟨v, vs', rfl, hhead, hmore⟩ := List.map_eq_cons_iff.mp h.symm
    rw [readsInOrder_cons, memRead_of_peek hhead.symm, andThen_ok, ih hmore.symm, andThen_ok]

theorem readsInOrder_length {addrs : List Addr} :
    ∀ {b b' : Bus} {vs : List Byte}, Claims.readsInOrder addrs b = .ok vs b' → vs.length = addrs.length := by
  induction addrs with
  | nil =>
    intro b b' vs h
    cases h
    rfl
  | cons addr more ih =>
    intro b b' vs h
    rw [readsInOrder_cons] at h
    obtain ⟨v, b1, -, h⟩ := andThen_eq_ok.mp h
    obtain ⟨vs', b2, hmore, h⟩ := andThen_eq_ok.mp h
    cases h
    exact congrArg (· + 1) (ih hmore)

/-! ## The stack pointer -/

theorem sp_sub_two (sp : Byte) : sp - 1#8 - 1#8 = sp - 2#8 := by bv_omega
theorem sp_sub_three (sp : Byte) : sp - 1#8 - 2#8 = sp - 3#8 := by bv_omega
theorem sp_add_two (sp : Byte) : sp + 1#8 + 1#8 = sp + 2#8 := by bv_omega
theorem sp_add_three (sp : Byte) : sp + 1#8 + 2#8 = sp + 3#8 := by bv_omega

/-- Different stack pointers have different stack addresses. -/
theorem stackAddr_ne {a b : Byte} (h : a ≠ b) : stackAddr a ≠ stackAddr b := fun he => h (stackAddr_inj he)

/-! ## Pushes and pulls -/

section
variable {β : Type} (sp : Byte) (b : Bus)

theorem push_andThen (v : Byte) (k : Byte → Bus → BusRes β) :
    (push v sp b).andThen k = (memWrite (stackAddr sp) v b).andThen fun _ b => k (sp - 1#8) b :=
  andThen_assoc ..

/-- Two pushes are two writes in order, and SP two less. -/
theorem pushTwo_andThen (v w : Byte) (k : Byte → Bus → BusRes β) :
    ((push v sp b).andThen fun sp b => (push w sp b).andThen k) =
      (Claims.writesInOrder [(stackAddr sp, v), (stackAddr (sp - 1#8), w)] b).andThen fun _ b => k (sp - 2#8) b := by
  simp only [push_andThen, writesInOrder_cons, writesInOrder_nil, andThen_assoc, andThen_ok, sp_sub_two]

/-- Three pushes are three writes in order, and SP three less. -/
theorem pushThree_andThen (v w x : Byte) (k : Byte → Bus → BusRes β) :
    ((push v sp b).andThen fun sp b => (push w sp b).andThen fun sp b => (push x sp b).andThen k) =
      (Claims.writesInOrder
        [(stackAddr sp, v), (stackAddr (sp - 1#8), w), (stackAddr (sp - 2#8), x)] b).andThen
          fun _ b => k (sp - 3#8) b := by
  simp only [push_andThen, writesInOrder_cons, writesInOrder_nil, andThen_assoc, andThen_ok, sp_sub_two, sp_sub_three]

theorem pull_andThen (k : Byte × Byte → Bus → BusRes β) :
    (pull sp b).andThen k = (memRead (stackAddr (sp + 1#8)) b).andThen fun v b => k (v, sp + 1#8) b :=
  andThen_assoc ..

/-- Two pulls are two reads in order, and SP two more. -/
theorem pullTwo_andThen (k : Byte × Byte → Byte × Byte → Bus → BusRes β) :
    ((pull sp b).andThen fun v b => (pull v.2 b).andThen (k v)) =
      (Claims.readsInOrder [stackAddr (sp + 1#8), stackAddr (sp + 2#8)] b).andThen fun vs b =>
        k (vs.getD 0 0#8, sp + 1#8) (vs.getD 1 0#8, sp + 2#8) b := by
  simp only [pull_andThen, readsInOrder_cons, readsInOrder_nil, andThen_assoc, andThen_ok, sp_add_two]
  rfl

/-- Three pulls are three reads in order, and SP three more. -/
theorem pullThree_andThen (k : Byte × Byte → Byte × Byte → Byte × Byte → Bus → BusRes β) :
    ((pull sp b).andThen fun v b => (pull v.2 b).andThen fun w b => (pull w.2 b).andThen (k v w)) =
      (Claims.readsInOrder [stackAddr (sp + 1#8), stackAddr (sp + 2#8), stackAddr (sp + 3#8)] b).andThen fun vs b =>
        k (vs.getD 0 0#8, sp + 1#8) (vs.getD 1 0#8, sp + 2#8) (vs.getD 2 0#8, sp + 3#8) b := by
  simp only [pull_andThen, readsInOrder_cons, readsInOrder_nil, andThen_assoc, andThen_ok, sp_add_two, sp_add_three]
  rfl

end

/-! ## JSR and RTS -/

theorem exec_jsr (w : Addr) (s : State) : exec (.jsr w) s = runInstr (.jsr w) s fun cpu b =>
    (push (hi8 (s.cpu.pc + 2#16)) cpu.sp b).andThen fun sp b =>
      (push (lo8 (s.cpu.pc + 2#16)) sp b).andThen fun sp b => .ok { cpu := { cpu with sp := sp, pc := w } } b := rfl

theorem exec_rts (s : State) : exec .rts s = runInstr .rts s fun cpu b =>
    (pull cpu.sp b).andThen fun lo b =>
      (pull lo.2 b).andThen fun hi b => .ok { cpu := { cpu with sp := hi.2, pc := word hi.1 lo.1 + 1#16 } } b := rfl

/-- The writes of JSR: the address of its last byte, high byte first (R277). -/
def jsrPushes (cpu : CpuState) : List (Addr × Byte) :=
  [(stackAddr cpu.sp, hi8 (cpu.pc + 2#16)), (stackAddr (cpu.sp - 1#8), lo8 (cpu.pc + 2#16))]

theorem jsr_of_writes_ok {s : State} {b : Bus} (w : Addr) (h : Claims.writesInOrder (jsrPushes s.cpu) s.bus = .ok () b) :
    exec (.jsr w) s = .next (Claims.jumped s 0x20#8 6 w (s.cpu.sp - 2#8) b) := by
  have hcost : (Instr.jsr w).baseCycles s.cfg = 6 := baseCyclesByMode s.cfg (.jsr w) rfl
  rw [exec_jsr, runInstr_ok ((pushTwo_andThen ..).trans (congrArg (BusRes.andThen · _) h))]
  exact congrArg _ (completed_eq_jumped rfl hcost)

theorem jsr_of_writes_raised {s : State} {b : Bus} {f : Fault} (w : Addr)
    (h : Claims.writesInOrder (jsrPushes s.cpu) s.bus = .raised f b) : exec (.jsr w) s = .next (s.abandon f b) := by
  rw [exec_jsr, runInstr_raised ((pushTwo_andThen ..).trans (congrArg (BusRes.andThen · _) h))]

theorem word_succ_eq_ofNat (h l : Byte) : word h l + 1#16 = BitVec.ofNat 16 (h.toNat * 256 + l.toNat + 1) := by
  rw [word_eq_ofNat]
  exact (BitVec.ofNat_add _ 1).symm

theorem rts_of_reads_ok {s : State} {lo hi : Byte} {b : Bus}
    (h : Claims.readsInOrder [stackAddr (s.cpu.sp + 1#8), stackAddr (s.cpu.sp + 2#8)] s.bus = .ok [lo, hi] b) :
    exec .rts s = .next (Claims.jumped s 0x60#8 6 (word hi lo + 1#16) (s.cpu.sp + 2#8) b) := by
  have hcost : Instr.rts.baseCycles s.cfg = 6 := baseCyclesByMode s.cfg .rts rfl
  rw [exec_rts, runInstr_ok ((pullTwo_andThen ..).trans (congrArg (BusRes.andThen · _) h))]
  exact congrArg _ (completed_eq_jumped rfl hcost)

theorem rts_of_reads_raised {s : State} {f : Fault} {b : Bus}
    (h : Claims.readsInOrder [stackAddr (s.cpu.sp + 1#8), stackAddr (s.cpu.sp + 2#8)] s.bus = .raised f b) :
    exec .rts s = .next (s.abandon f b) := by
  rw [exec_rts, runInstr_raised ((pullTwo_andThen ..).trans (congrArg (BusRes.andThen · _) h))]

theorem rts_row : ImpliedRow .rts 0x60#8 6 := ⟨rfl, rfl, rfl, rfl, rfl⟩

/-- Settles O37: the pushes of JSR are two writes in order, the pulls of RTS two reads. -/
theorem jsrAndRtsCallAndReturn : Obligations.JsrAndRtsCallAndReturn := by
  intro s w
  refine ⟨fetchFaults_of_state s, jsr_coded s.cfg w, ?_, ?_, rts_row.coded s.cfg, ?_, ?_⟩
  · exact fun b h => ⟨jsr_of_writes_ok w h, sameBytesBut_of_writesInOrder h⟩
  · exact fun f b h => ⟨jsr_of_writes_raised w h, writeFault_of_writesInOrder h⟩
  · intro lo hi b h
    rw [← word_succ_eq_ofNat]
    exact ⟨rts_of_reads_ok h, sameBytes_of_readsInOrder_ok h⟩
  · exact fun f b h => ⟨rts_of_reads_raised h, readsInOrder_raised h, sameBytes_of_readsInOrder_raised h⟩

/-- Settles O38: the RAM stack keeps the two bytes of JSR, so RTS reads them again. -/
theorem rtsReturnsPastTheJsr : Obligations.RtsReturnsPastTheJsr := by
  intro s w hwf hhigh hlow
  have hne : stackAddr s.cpu.sp ≠ stackAddr (s.cpu.sp - 1#8) := stackAddr_ne (by bv_omega)
  obtain ⟨b, hwrites, hpeek⟩ := writesInOrder_of_writable (writes := jsrPushes s.cpu) (Bool.and_eq_true_iff.mp hwf).1
    (by simp [jsrPushes, hhigh, hlow]) (by simp [jsrPushes, hne])
  obtain ⟨hpeekHigh, hpeekLow⟩ : b.peek (stackAddr s.cpu.sp) = some (hi8 (s.cpu.pc + 2#16)) ∧
      b.peek (stackAddr (s.cpu.sp - 1#8)) = some (lo8 (s.cpu.pc + 2#16)) := by simpa [jsrPushes] using hpeek
  have hfirst : s.cpu.sp - 2#8 + 1#8 = s.cpu.sp - 1#8 := by bv_omega
  have hsecond : s.cpu.sp - 2#8 + 2#8 = s.cpu.sp := BitVec.sub_add_cancel _ _
  have hreads := rts_of_reads_ok (s := Claims.jumped s 0x20#8 6 w (s.cpu.sp - 2#8) b)
    (readsInOrder_of_peek (vs := [lo8 (s.cpu.pc + 2#16), hi8 (s.cpu.pc + 2#16)])
      (by simp only [Claims.jumped, hfirst, hsecond, List.map, hpeekHigh, hpeekLow]))
  refine ⟨_, _, jsr_of_writes_ok w hwrites, hreads, ?_, sameBytesBut_of_writesInOrder hwrites⟩
  have hpc : s.cpu.pc + 2#16 + 1#16 = s.cpu.pc + 3#16 := by bv_omega
  simp only [Claims.jumped, hsecond, word_hi_lo, hpc]

end Sys2Proof.Machine
end

section
/-! The stack, flag and system instructions (49_stack_flags_system.md sections 1 to 4): one push or one pull, one flag, no
operation, WAI and STP; and the boundary after those that write I (R341). -/

namespace Sys2Proof.Machine

/-! ## The boundary after an instruction -/

/-- The I of a running core with an asserted line and no latched NMI decides the step (R341). -/
theorem step_of_asserted_irq {t : State} (hrun : t.cpu.run = .running) (hnmi : t.cpu.nmiPending = false)
    (hirq : t.irqLine = true) : step t = if t.cpu.i then instructionStep t else .next (takeInterrupt .irq t) := by
  cases hi : t.cpu.i with
  | true => exact step_of_instruction (sample_instruction hrun hnmi (.inr hi))
  | false => exact step_of_interrupt (by simp [sample_of_running hrun, hnmi, hirq, hi])

/-- An instruction that leaves the run state, the latch and the line alone is followed by the boundary of its I. -/
theorem boundaryAfter_of_next {s t : State} {i : Instr} {disable : Bool} (hexec : exec i s = .next t)
    (hrun : t.cpu.run = s.cpu.run) (hnmi : t.cpu.nmiPending = s.cpu.nmiPending) (hirq : t.irqLine = s.irqLine)
    (hi : t.cpu.i = disable) : Claims.boundaryAfter s i disable := by
  intro h1 h2 h3
  subst hi
  exact ⟨t, hexec, step_of_asserted_irq (hrun.trans h1) (hnmi.trans h2) (hirq.trans h3)⟩

/-! ## Pushes -/

/-- A coded push of one byte and 3 cycles is its one write. -/
theorem pushes_of_runPush {s : State} {i : Instr} {op v : Byte} {g : CpuState → Byte}
    (hcoded : Claims.coded s.cfg i [op]) (hop : i.opcode? = some op) (hbytes : i.operandBytes = [])
    (hcost : i.baseCycles s.cfg = 3) (hexec : exec i s = runPush i s g) (hv : g (s.cpu.fetched i) = v) :
    Claims.pushes s i op v := by
  subst hv
  have hlength : i.length = 1 := by rw [Instr.length, hbytes]; rfl
  rw [Claims.pushes, hexec]
  refine ⟨hcoded, ?_, ?_⟩
  · intro b h
    have hother : Claims.sameBytesBut [stackAddr s.cpu.sp] s.bus b :=
      sameBytesBut_of_writesInOrder (writes := [(stackAddr s.cpu.sp, g (s.cpu.fetched i))])
        (by rw [writesInOrder_cons, h]; rfl)
    refine ⟨?_, hother, peek_of_memWrite h⟩
    rw [runPush, runInstr_ok ((push_andThen ..).trans (congrArg (BusRes.andThen · _) h)),
      completed_eq_after (cpu := { s.cpu with sp := s.cpu.sp - 1#8 }) hop rfl, hcost, hlength]
    rfl
  · intro f b h
    refine ⟨?_, ⟨_, List.mem_singleton_self _, memWrite_raised h⟩, peek_sameStore (memWrite_raised_sameStore h)⟩
    rw [runPush, runInstr_raised ((push_andThen ..).trans (congrArg (BusRes.andThen · _) h))]

theorem exec_pha (s : State) : exec .pha s = runPush .pha s fun cpu => cpu.a := rfl
theorem exec_php (s : State) : exec .php s = runPush .php s fun cpu => cpu.packP true := rfl
theorem exec_phx (s : State) : exec .phx s = runPush .phx s fun cpu => cpu.x := rfl
theorem exec_phy (s : State) : exec .phy s = runPush .phy s fun cpu => cpu.y := rfl

theorem pha_row : ImpliedRow .pha 0x48#8 3 := ⟨rfl, rfl, rfl, rfl, rfl⟩
theorem php_row : ImpliedRow .php 0x08#8 3 := ⟨rfl, rfl, rfl, rfl, rfl⟩

/-- An instruction of CMOS alone that no parameter changes has its coding from the CMOS map. -/
theorem coded_of_cmosCell {cfg : Config} {i : Instr} {op : Byte} {cost : Nat} (hop : i.opcode? = some op)
    (hbytes : i.operandBytes = []) (hplain : isOptional op = false) (hcell : cellOf cmosMap op = Desc.imp i cost)
    (hc : cfg.isCmos = true) : Claims.coded cfg i [op] :=
  coded_of_form_imp hop hbytes (congrArg Desc.form ((descOf_cmos hc hplain).trans hcell))

/-- Settles O39: each is a push of its register, PHP of the status byte that the fetch left alone. -/
theorem pushesStoreTheirByte : Obligations.PushesStoreTheirByte := by
  intro s
  refine ⟨fetchFaults_of_state s, ?pha, ?php, fun hc => ⟨?phx, ?phy⟩, illegalOnNmos_of_subset (by decide)⟩
  case pha => exact pushes_of_runPush (pha_row.coded s.cfg) rfl rfl (baseCyclesByMode s.cfg .pha rfl) (exec_pha s) rfl
  case php => exact pushes_of_runPush (php_row.coded s.cfg) rfl rfl (baseCyclesByMode s.cfg .php rfl) (exec_php s) rfl
  case phx =>
    exact pushes_of_runPush (coded_of_cmosCell rfl rfl rfl rfl hc) rfl rfl (baseCyclesByMode s.cfg .phx hc) (exec_phx s) rfl
  case phy =>
    exact pushes_of_runPush (coded_of_cmosCell rfl rfl rfl rfl hc) rfl rfl (baseCyclesByMode s.cfg .phy hc) (exec_phy s) rfl

/-! ## Pulls -/

/-- The completed state of a pull. -/
theorem pull_of_runPull {s : State} {i : Instr} {op : Byte} {f : Byte → CpuState} {g : Byte → CpuState → CpuState}
    (hop : i.opcode? = some op) (hbytes : i.operandBytes = []) (hcost : i.baseCycles s.cfg = 4)
    (hcpu : ∀ v, g v { s.cpu.fetched i with sp := s.cpu.sp + 1#8 } = { f v with
      sp := s.cpu.sp + 1#8, pc := (s.cpu.fetched i).pc, ir := (s.cpu.fetched i).ir,
      cycles := (s.cpu.fetched i).cycles }) {v : Byte} {b : Bus}
    (h : memRead (stackAddr (s.cpu.sp + 1#8)) s.bus = .ok v b) :
    runPull i s g = .next (Claims.after s op 1 4 { f v with sp := s.cpu.sp + 1#8 } b) := by
  have hlength : i.length = 1 := by rw [Instr.length, hbytes]; rfl
  rw [runPull, runInstr_ok ((pull_andThen ..).trans (congrArg (BusRes.andThen · _) h)),
    completed_eq_after (cpu := { f v with sp := s.cpu.sp + 1#8 }) hop (hcpu v), hcost, hlength]
  rfl

/-- A coded pull of one byte and 4 cycles is its one read. -/
theorem pulls_of_runPull {s : State} {i : Instr} {op : Byte} {f : Byte → CpuState} {g : Byte → CpuState → CpuState}
    (hcoded : Claims.coded s.cfg i [op]) (hop : i.opcode? = some op) (hbytes : i.operandBytes = [])
    (hcost : i.baseCycles s.cfg = 4) (hexec : exec i s = runPull i s g)
    (hcpu : ∀ v, g v { s.cpu.fetched i with sp := s.cpu.sp + 1#8 } = { f v with
      sp := s.cpu.sp + 1#8, pc := (s.cpu.fetched i).pc, ir := (s.cpu.fetched i).ir,
      cycles := (s.cpu.fetched i).cycles }) : Claims.pulls s i op f := by
  have hstore := memRead_sameStore (stackAddr (s.cpu.sp + 1#8)) s.bus
  rw [Claims.pulls, hexec]
  refine ⟨hcoded, ?_, ?_⟩
  · intro v b h
    rw [h] at hstore
    exact ⟨pull_of_runPull hop hbytes hcost hcpu h, peek_sameStore hstore⟩
  · intro fault b h
    rw [h] at hstore
    refine ⟨?_, ⟨_, memRead_raised h⟩, peek_sameStore hstore⟩
    rw [runPull, runInstr_raised ((pull_andThen ..).trans (congrArg (BusRes.andThen · _) h))]

theorem exec_pla (s : State) : exec .pla s = runPull .pla s fun v cpu => { cpu.setNZ v with a := v } := rfl
theorem exec_plp (s : State) : exec .plp s = runPull .plp s fun v cpu => cpu.unpackP v := rfl
theorem exec_plx (s : State) : exec .plx s = runPull .plx s fun v cpu => { cpu.setNZ v with x := v } := rfl
theorem exec_ply (s : State) : exec .ply s = runPull .ply s fun v cpu => { cpu.setNZ v with y := v } := rfl

theorem pla_row : ImpliedRow .pla 0x68#8 4 := ⟨rfl, rfl, rfl, rfl, rfl⟩
theorem plp_row : ImpliedRow .plp 0x28#8 4 := ⟨rfl, rfl, rfl, rfl, rfl⟩

/-- Settles O40: each is a pull into its register, PLP into the flags, whose I is in the state that it leaves. -/
theorem pullsFillTheirRegister : Obligations.PullsFillTheirRegister := by
  intro s
  have hplp : Claims.pulls s .plp 0x28#8 (fun v => Claims.flagsFrom s.cpu v) :=
    pulls_of_runPull (plp_row.coded s.cfg) rfl rfl (baseCyclesByMode s.cfg .plp rfl) (exec_plp s) fun _ => rfl
  refine ⟨fetchFaults_of_state s, ?pla, hplp, ?boundary, fun hc => ⟨?plx, ?ply⟩, illegalOnNmos_of_subset (by decide)⟩
  case pla =>
    exact pulls_of_runPull (pla_row.coded s.cfg) rfl rfl (baseCyclesByMode s.cfg .pla rfl) (exec_pla s) fun _ => rfl
  case boundary => exact fun v b h => boundaryAfter_of_next (hplp.2.1 v b h).1 rfl rfl rfl rfl
  case plx =>
    exact pulls_of_runPull (coded_of_cmosCell rfl rfl rfl rfl hc) rfl rfl (baseCyclesByMode s.cfg .plx hc) (exec_plx s)
      fun _ => rfl
  case ply =>
    exact pulls_of_runPull (coded_of_cmosCell rfl rfl rfl rfl hc) rfl rfl (baseCyclesByMode s.cfg .ply hc) (exec_ply s)
      fun _ => rfl

/-! ## Flags -/

theorem exec_clc (s : State) : exec .clc s = runRegister .clc s fun cpu => { cpu with c := false } := rfl
theorem exec_sec (s : State) : exec .sec s = runRegister .sec s fun cpu => { cpu with c := true } := rfl
theorem exec_cli (s : State) : exec .cli s = runRegister .cli s fun cpu => { cpu with i := false } := rfl
theorem exec_sei (s : State) : exec .sei s = runRegister .sei s fun cpu => { cpu with i := true } := rfl
theorem exec_clv (s : State) : exec .clv s = runRegister .clv s fun cpu => { cpu with v := false } := rfl
theorem exec_cld (s : State) : exec .cld s = runRegister .cld s fun cpu => { cpu with d := false } := rfl
theorem exec_sed (s : State) : exec .sed s = runRegister .sed s fun cpu => { cpu with d := true } := rfl

theorem clc_row : ImpliedRow .clc 0x18#8 2 := ⟨rfl, rfl, rfl, rfl, rfl⟩
theorem sec_row : ImpliedRow .sec 0x38#8 2 := ⟨rfl, rfl, rfl, rfl, rfl⟩
theorem cli_row : ImpliedRow .cli 0x58#8 2 := ⟨rfl, rfl, rfl, rfl, rfl⟩
theorem sei_row : ImpliedRow .sei 0x78#8 2 := ⟨rfl, rfl, rfl, rfl, rfl⟩
theorem clv_row : ImpliedRow .clv 0xB8#8 2 := ⟨rfl, rfl, rfl, rfl, rfl⟩
theorem cld_row : ImpliedRow .cld 0xD8#8 2 := ⟨rfl, rfl, rfl, rfl, rfl⟩
theorem sed_row : ImpliedRow .sed 0xF8#8 2 := ⟨rfl, rfl, rfl, rfl, rfl⟩

/-- Settles O41: each is its row with one flag written; CLI and SEI leave the I that the next boundary samples. -/
theorem flagInstructionsWriteOneFlag : Obligations.FlagInstructionsWriteOneFlag := by
  intro s
  have hcli : Claims.registers s .cli 0x58#8 2 { s.cpu with i := false } :=
    registers_of_impliedRow cli_row (exec_cli s) rfl
  have hsei : Claims.registers s .sei 0x78#8 2 { s.cpu with i := true } :=
    registers_of_impliedRow sei_row (exec_sei s) rfl
  exact ⟨fetchFaults_of_state s, registers_of_impliedRow clc_row (exec_clc s) rfl,
    registers_of_impliedRow sec_row (exec_sec s) rfl, hcli, hsei, boundaryAfter_of_next hcli.2 rfl rfl rfl rfl,
    boundaryAfter_of_next hsei.2 rfl rfl rfl rfl, registers_of_impliedRow clv_row (exec_clv s) rfl,
    registers_of_impliedRow cld_row (exec_cld s) rfl, registers_of_impliedRow sed_row (exec_sed s) rfl⟩

/-! ## No operations -/

theorem exec_nop (s : State) : exec .nop s = runRegister .nop s fun cpu => cpu := rfl
theorem exec_nopStar (op : Byte) (shape : NopShape) (s : State) :
    exec (.nopStar op shape) s = runRegister (.nopStar op shape) s fun cpu => cpu := rfl

theorem nop_row : ImpliedRow .nop 0xEA#8 2 := ⟨rfl, rfl, rfl, rfl, rfl⟩

/-- An undefined opcode moves PC past its bytes, at its cost. -/
theorem exec_nopStar_eq_after {s : State} {op : Byte} {shape : NopShape} {cost : Nat}
    (hcost : (Instr.nopStar op shape).baseCycles s.cfg = cost) :
    exec (.nopStar op shape) s =
      .next (Claims.after s op (Instr.nopStar op shape).length cost s.cpu s.bus) := by
  rw [exec_nopStar, runRegister_eq, completed_eq_after (op := op) (cpu := s.cpu) rfl rfl, hcost]
  rfl

/-- The counts of R121 for the opcodes of two bytes. -/
theorem nopTwo_base (cfg : Config) (b1 : Byte) :
    ∀ op ∈ [0x02#8, 0x22#8, 0x42#8, 0x62#8, 0x82#8, 0xC2#8, 0xE2#8, 0x44#8, 0x54#8, 0xD4#8, 0xF4#8],
      Claims.base cfg (.nopStar op (.two b1)) =
        if op = 0x44#8 then 3 else if op ∈ [0x54#8, 0xD4#8, 0xF4#8] then 4 else 2 := by
  simp [Claims.base]

/-- The counts of R121 for the opcodes of three bytes. -/
theorem nopThree_base (cfg : Config) (b1 b2 : Byte) : ∀ op ∈ [0x5C#8, 0xDC#8, 0xFC#8],
    Claims.base cfg (.nopStar op (.three b1 b2)) = if op = 0x5C#8 then 8 else 4 := by
  simp [Claims.base]

/-- Settles O42: NOP by its row, the undefined opcodes by the three lists of R121; their effect is that of no operation. -/
theorem noOperationsChangePcAndCyclesOnly : Obligations.NoOperationsChangePcAndCyclesOnly := by
  intro s
  refine ⟨fetchFaults_of_state s, registers_of_impliedRow nop_row (exec_nop s) rfl, fun hc => ⟨?two, ?three, ?one⟩⟩
  case two =>
    intro op hop b1
    have hmem : op ∈ cmosNop2 := hop
    have hwf : (Instr.nopStar op (.two b1)).wellFormed s.cfg = true :=
      Bool.and_eq_true_iff.mpr ⟨hc, List.contains_iff_mem.mpr hmem⟩
    exact ⟨nopTwo_coded hc hmem b1,
      exec_nopStar_eq_after ((baseCyclesByMode s.cfg _ hwf).trans (nopTwo_base s.cfg b1 op hop))⟩
  case three =>
    intro op hop b1 b2
    have hmem : op ∈ cmosNop3 := hop
    have hwf : (Instr.nopStar op (.three b1 b2)).wellFormed s.cfg = true :=
      Bool.and_eq_true_iff.mpr ⟨hc, List.contains_iff_mem.mpr hmem⟩
    exact ⟨nopThree_coded hc hmem b1 b2,
      exec_nopStar_eq_after ((baseCyclesByMode s.cfg _ hwf).trans (nopThree_base s.cfg b1 b2 op hop))⟩
  case one =>
    intro op h
    have hnop := isNop1_iff.mpr h
    exact ⟨nopOne_coded hc hnop, exec_nopStar_eq_after
      ((baseCycles_of_opcode rfl s.cfg).trans (congrArg Desc.baseCycles (descOf_isNop1 hc hnop)))⟩

/-! ## WAI and STP -/

theorem exec_wai (s : State) : exec .wai s = runRegister .wai s fun cpu => { cpu with run := .waiting } := rfl
theorem exec_stp (s : State) : exec .stp s = runRegister .stp s fun cpu => { cpu with run := .stopped } := rfl

theorem waits_of_waiting {t : State} (h : t.cpu.run = .waiting) : Claims.waits t := by
  refine ⟨?idle, ?nmi, ?irq, ?wake⟩
  case idle => exact fun hnmi hirq => step_of_idle (by simp [sample_of_waiting h, hnmi, hirq])
  case nmi => exact fun hnmi => step_of_interrupt (by simp [sample_of_waiting h, hnmi])
  case irq => exact fun hnmi hirq hi => step_of_interrupt (by simp [sample_of_waiting h, hnmi, hirq, hi])
  case wake => exact fun hnmi hirq hi => step_of_wake (by simp [sample_of_waiting h, hnmi, hirq, hi])

theorem stops_of_stopped {t : State} (h : t.cpu.run = .stopped) : Claims.stops t :=
  ⟨step_of_stopped h, step_of_stopped (s := nmi t) h, rfl, fun level => step_of_stopped (s := setIrq level t) h⟩

/-- Without the parameter the opcodes of WAI and STP are no operations of one byte (R121, R123). -/
theorem isNop1_waiStp {cfg : Config} (h : cfg.cmosWaiStp = false) {op : Byte} (hop : op ∈ [0xCB#8, 0xDB#8]) :
    cfg.isNop1 op = true := by
  have hlow : op.toNat % 16 = 0xB := by
    revert op
    decide
  exact isNop1_iff.mpr (.inr (.inl ⟨hlow, fun hpresent => by simp [h] at hpresent⟩))

/-- Settles O45: both are register instructions that write the run state, and the boundary of that state is sampled. -/
theorem waiAndStpChangeTheRunState : Obligations.WaiAndStpChangeTheRunState := by
  intro s
  refine ⟨fetchFaults_of_state s, fun hc hparam => ?registers, ?waits, ?stops, ?nop, illegalOnNmos_of_subset (by decide)⟩
  case registers =>
    have h := hasWaiStp_iff.mpr ⟨hc, hparam⟩
    exact ⟨registers_of_runRegister (wai_coded h) rfl rfl (baseCyclesByMode s.cfg .wai h) (exec_wai s) rfl,
      registers_of_runRegister (stp_coded h) rfl rfl (baseCyclesByMode s.cfg .stp h) (exec_stp s) rfl⟩
  case waits =>
    intro t h
    rw [exec_wai, runRegister_eq] at h
    cases h
    exact waits_of_waiting rfl
  case stops =>
    intro t h
    rw [exec_stp, runRegister_eq] at h
    cases h
    exact stops_of_stopped rfl
  case nop => exact fun hc hparam op hop => (nopOne_coded hc (isNop1_waiStp hparam hop)).2

end Sys2Proof.Machine
end

section
/-! The entry to a handler and the return from it (49_stack_flags_system.md R314 and R315, 60_exceptions.md R350 to R354):
the three pushes and the vector as writes and reads in order, and an RTI at once as the inverse of the entry. -/

namespace Sys2Proof.Machine

/-! ## The entry -/

section Entry
variable {cfg : Config} {brk : Bool} {vector next : Addr} {cpu : CpuState} {b b1 b2 : Bus} {f : Fault}

theorem enterHandler_eq_writes : enterHandler cfg brk vector cpu b =
    (Claims.writesInOrder (Claims.entryPushes cpu cpu.pc brk) b).andThen fun _ b =>
      (readPointer vector (vector + 1#16) b).andThen fun pc b =>
        .ok { cpu with sp := cpu.sp - 3#8, i := true, d := if cfg.isCmos then false else cpu.d, pc := pc } b :=
  pushThree_andThen ..

theorem enterHandler_of_pushes_raised (h : Claims.writesInOrder (Claims.entryPushes cpu cpu.pc brk) b = .raised f b1) :
    enterHandler cfg brk vector cpu b = .raised f b1 := by
  rw [enterHandler_eq_writes, h, andThen_raised]

variable (hpushes : Claims.writesInOrder (Claims.entryPushes cpu cpu.pc brk) b = .ok () b1) (hnext : vector + 1#16 = next)
include hpushes hnext

theorem enterHandler_of_vector_ok {lo hi : Byte} (h : Claims.readsInOrder [vector, next] b1 = .ok [lo, hi] b2) :
    enterHandler cfg brk vector cpu b = .ok (Claims.entered cfg cpu lo hi) b2 := by
  rw [enterHandler_eq_writes, hpushes, andThen_ok, hnext, (readPointer_of_readsInOrder _ _ _).1 _ _ _ h, andThen_ok,
    word_eq_ofNat, Claims.entered]

theorem enterHandler_of_vector_raised (h : Claims.readsInOrder [vector, next] b1 = .raised f b2) :
    enterHandler cfg brk vector cpu b = .raised f b2 := by
  rw [enterHandler_eq_writes, hpushes, andThen_ok, hnext, (readPointer_of_readsInOrder _ _ _).2 _ _ h, andThen_raised]

end Entry

/-! ## BRK -/

theorem exec_brk (pad : Byte) (s : State) : exec (.brk pad) s = runInstr (.brk pad) s fun cpu b =>
    (enterHandler s.cfg true irqVector cpu b).andThen fun cpu b => .ok { cpu := cpu } b := rfl

section Brk
variable {s : State} {b b' : Bus} {f : Fault} (pad : Byte)

theorem brk_of_vector_ok {lo hi : Byte}
    (hpushes : Claims.writesInOrder (Claims.entryPushes s.cpu (s.cpu.pc + 2#16) true) s.bus = .ok () b)
    (h : Claims.readsInOrder [0xFFFE#16, 0xFFFF#16] b = .ok [lo, hi] b') :
    exec (.brk pad) s = .next { s with
      cpu := { Claims.entered s.cfg s.cpu lo hi with ir := 0x00#8, cycles := s.cpu.cycles + 7 }, bus := b' } := by
  have hcost : (Instr.brk pad).baseCycles s.cfg = 7 := baseCyclesByMode s.cfg (.brk pad) rfl
  have henter := enterHandler_of_vector_ok (cfg := s.cfg) (cpu := s.cpu.fetched (.brk pad)) hpushes (by decide) h
  rw [exec_brk, runInstr_ok (congrArg (BusRes.andThen · _) henter), State.completed, hcost]
  rfl

theorem brk_of_vector_raised
    (hpushes : Claims.writesInOrder (Claims.entryPushes s.cpu (s.cpu.pc + 2#16) true) s.bus = .ok () b)
    (h : Claims.readsInOrder [0xFFFE#16, 0xFFFF#16] b = .raised f b') : exec (.brk pad) s = .next (s.abandon f b') := by
  have henter := enterHandler_of_vector_raised (cfg := s.cfg) (cpu := s.cpu.fetched (.brk pad)) hpushes (by decide) h
  rw [exec_brk, runInstr_raised (congrArg (BusRes.andThen · _) henter)]

theorem brk_of_pushes_raised
    (hpushes : Claims.writesInOrder (Claims.entryPushes s.cpu (s.cpu.pc + 2#16) true) s.bus = .raised f b) :
    exec (.brk pad) s = .next (s.abandon f b) := by
  have henter := enterHandler_of_pushes_raised (cfg := s.cfg) (vector := irqVector) (cpu := s.cpu.fetched (.brk pad))
    hpushes
  rw [exec_brk, runInstr_raised (congrArg (BusRes.andThen · _) henter)]

end Brk

/-- Settles O43: the entry from the state that the fetch left, with PC past the padding byte. -/
theorem brkEntersTheIrqHandler : Obligations.BrkEntersTheIrqHandler := by
  intro s pad
  refine ⟨fetchFaults_of_state s, brk_coded s.cfg pad, fun b hpushes => ⟨sameBytesBut_of_writesInOrder hpushes, ?_, ?_⟩, ?_⟩
  · exact fun lo hi b' h => ⟨brk_of_vector_ok pad hpushes h, sameBytes_of_readsInOrder_ok h⟩
  · exact fun f b' h =>
      ⟨brk_of_vector_raised pad hpushes h, readsInOrder_raised h, sameBytes_of_readsInOrder_raised h⟩
  · exact fun f b h => ⟨brk_of_pushes_raised pad h, writeFault_of_writesInOrder h⟩

/-! ## NMI and IRQ -/

theorem takeInterrupt_of_enterHandler_ok {src : Source} {s : State} {cpu : CpuState} {b : Bus}
    (h : enterHandler s.cfg false src.vector
      { s.cpu with nmiPending := src.latchAfter s.cpu.nmiPending, run := .running } s.bus = .ok cpu b) :
    takeInterrupt src s = { s with cpu := { cpu with cycles := cpu.cycles + 7 }, bus := b } := by
  simp only [takeInterrupt, h]

theorem takeInterrupt_of_enterHandler_raised {src : Source} {s : State} {f : Fault} {b : Bus}
    (h : enterHandler s.cfg false src.vector
      { s.cpu with nmiPending := src.latchAfter s.cpu.nmiPending, run := .running } s.bus = .raised f b) :
    takeInterrupt src s = s.abandon f b := by
  simp only [takeInterrupt, h]

theorem latchAfter_eq (src : Source) (pending : Bool) :
    src.latchAfter pending = if src = .nmi then false else pending := by
  cases src <;> rfl

theorem vector_eq (src : Source) : src.vector = if src = .nmi then 0xFFFA#16 else 0xFFFE#16 := by
  cases src <;> rfl

theorem vector_succ (src : Source) : src.vector + 1#16 = if src = .nmi then 0xFFFB#16 else 0xFFFF#16 := by
  cases src <;> rfl

section Interrupt
variable {src : Source} {s : State} {b b' : Bus} {f : Fault}

theorem takeInterrupt_of_pushes_raised
    (hpushes : Claims.writesInOrder (Claims.entryPushes s.cpu s.cpu.pc false) s.bus = .raised f b) :
    takeInterrupt src s = s.abandon f b :=
  takeInterrupt_of_enterHandler_raised (enterHandler_of_pushes_raised hpushes)

variable (hpushes : Claims.writesInOrder (Claims.entryPushes s.cpu s.cpu.pc false) s.bus = .ok () b)
include hpushes

theorem takeInterrupt_of_vector_ok {lo hi : Byte}
    (h : Claims.readsInOrder [src.vector, src.vector + 1#16] b = .ok [lo, hi] b') :
    takeInterrupt src s = { s with
      cpu := { Claims.entered s.cfg s.cpu lo hi with
        nmiPending := if src = .nmi then false else s.cpu.nmiPending
        run := .running, cycles := s.cpu.cycles + 7 }
      bus := b' } := by
  have henter := enterHandler_of_vector_ok (cfg := s.cfg)
    (cpu := { s.cpu with nmiPending := src.latchAfter s.cpu.nmiPending, run := .running }) hpushes rfl h
  rw [takeInterrupt_of_enterHandler_ok henter, ← latchAfter_eq]
  rfl

theorem takeInterrupt_of_vector_raised
    (h : Claims.readsInOrder [src.vector, src.vector + 1#16] b = .raised f b') :
    takeInterrupt src s = s.abandon f b' :=
  takeInterrupt_of_enterHandler_raised (enterHandler_of_vector_raised hpushes rfl h)

end Interrupt

/-- Settles O49: the entry from the state whose latch the source left, which no push reads. -/
theorem interruptEntryPushesAndVectors : Obligations.InterruptEntryPushesAndVectors := by
  intro s src lo hi hlo hhi
  rw [← vector_eq] at hlo
  rw [← vector_succ] at hhi
  subst hlo hhi
  refine ⟨fun b hpushes => ⟨sameBytesBut_of_writesInOrder hpushes, ?_, ?_⟩, ?_⟩
  · exact fun l h b' hv => ⟨takeInterrupt_of_vector_ok hpushes hv, sameBytes_of_readsInOrder_ok hv⟩
  · exact fun f b' hv =>
      ⟨takeInterrupt_of_vector_raised hpushes hv, readsInOrder_raised hv, sameBytes_of_readsInOrder_raised hv⟩
  · exact fun f b h => ⟨takeInterrupt_of_pushes_raised h, writeFault_of_writesInOrder h⟩

/-! ## RTI -/

theorem exec_rti (s : State) : exec .rti s = runInstr .rti s fun cpu b =>
    (leaveHandler cpu b).andThen fun cpu b => .ok { cpu := cpu } b := rfl

theorem rti_row : ImpliedRow .rti 0x40#8 6 := ⟨rfl, rfl, rfl, rfl, rfl⟩

/-- The stack addresses that RTI reads. -/
def rtiSlots (cpu : CpuState) : List Addr :=
  [stackAddr (cpu.sp + 1#8), stackAddr (cpu.sp + 2#8), stackAddr (cpu.sp + 3#8)]

theorem leaveHandler_eq_reads (cpu : CpuState) (b : Bus) : leaveHandler cpu b =
    (Claims.readsInOrder (rtiSlots cpu) b).andThen fun vs b =>
      .ok { cpu.unpackP (vs.getD 0 0#8) with sp := cpu.sp + 3#8, pc := word (vs.getD 2 0#8) (vs.getD 1 0#8) } b :=
  pullThree_andThen ..

theorem rti_of_reads_ok {s : State} {p lo hi : Byte} {b : Bus}
    (h : Claims.readsInOrder (rtiSlots s.cpu) s.bus = .ok [p, lo, hi] b) :
    exec .rti s = .next { s with
      cpu := { Claims.flagsFrom s.cpu p with
        sp := s.cpu.sp + 3#8, pc := word hi lo, ir := 0x40#8, cycles := s.cpu.cycles + 6 }
      bus := b } := by
  have hcost : Instr.rti.baseCycles s.cfg = 6 := baseCyclesByMode s.cfg .rti rfl
  have hleave := (leaveHandler_eq_reads (s.cpu.fetched .rti) s.bus).trans (congrArg (BusRes.andThen · _) h)
  rw [exec_rti, runInstr_ok (congrArg (BusRes.andThen · _) hleave), State.completed, hcost]
  rfl

theorem rti_of_reads_raised {s : State} {f : Fault} {b : Bus}
    (h : Claims.readsInOrder (rtiSlots s.cpu) s.bus = .raised f b) : exec .rti s = .next (s.abandon f b) := by
  have hleave := (leaveHandler_eq_reads (s.cpu.fetched .rti) s.bus).trans (congrArg (BusRes.andThen · _) h)
  rw [exec_rti, runInstr_raised (congrArg (BusRes.andThen · _) hleave)]

/-- Settles O44: the pulls are three reads in order; the status byte has the I that the next boundary samples. -/
theorem rtiRestoresPAndPc : Obligations.RtiRestoresPAndPc := by
  intro s
  refine ⟨fetchFaults_of_state s, rti_row.coded s.cfg, ?_, ?_⟩
  · intro p lo hi b h
    rw [← word_eq_ofNat]
    exact ⟨rti_of_reads_ok h, boundaryAfter_of_next (rti_of_reads_ok h) rfl rfl rfl rfl, sameBytes_of_readsInOrder_ok h⟩
  · exact fun f b h => ⟨rti_of_reads_raised h, readsInOrder_raised h, sameBytes_of_readsInOrder_raised h⟩

/-! ## RTI after an entry -/

/-- The pushes of an entry are all made on a RAM stack, and each byte is there afterwards. -/
theorem entryPushes_of_writable {cpu : CpuState} {b : Bus} (ret : Addr) (brk : Bool) (hm : Memory.wf b.mem = true)
    (hram : ∀ a ∈ Claims.entrySlots cpu, b.writable a) :
    ∃ b1, Claims.writesInOrder (Claims.entryPushes cpu ret brk) b = .ok () b1 ∧
      b1.peek (stackAddr cpu.sp) = some (hi8 ret) ∧ b1.peek (stackAddr (cpu.sp - 1#8)) = some (lo8 ret) ∧
      b1.peek (stackAddr (cpu.sp - 2#8)) = some (cpu.packP brk) := by
  have hdistinct : (Claims.entrySlots cpu).Nodup := by
    have h1 : stackAddr cpu.sp ≠ stackAddr (cpu.sp - 1#8) := stackAddr_ne (by bv_omega)
    have h2 : stackAddr cpu.sp ≠ stackAddr (cpu.sp - 2#8) := stackAddr_ne (by bv_omega)
    have h3 : stackAddr (cpu.sp - 1#8) ≠ stackAddr (cpu.sp - 2#8) := stackAddr_ne (by bv_omega)
    simp [Claims.entrySlots, h1, h2, h3]
  obtain ⟨b1, hwrites, hpeek⟩ := writesInOrder_of_writable (writes := Claims.entryPushes cpu ret brk) hm
    (fun write h => hram write.1 (List.mem_map_of_mem (f := Prod.fst) h)) hdistinct
  exact ⟨b1, hwrites, by simpa [Claims.entryPushes] using hpeek⟩

/-- The vector of an entry that did not fault was readable. -/
theorem vector_ok_of_not_raised {lo hi : Addr} {b : Bus} (h : ∀ f b', Claims.readsInOrder [lo, hi] b ≠ .raised f b') :
    ∃ l h b', Claims.readsInOrder [lo, hi] b = .ok [l, h] b' := by
  cases hr : Claims.readsInOrder [lo, hi] b with
  | raised f b' => exact absurd hr (h f b')
  | ok vs b' =>
    match vs, readsInOrder_length hr with
    | [l, h], _ => exact ⟨l, h, b', rfl⟩

/-- RTI where the stack holds a return address and a packed status byte, SP three below it: PC and the flags are those,
and no stored byte changes. -/
theorem rti_of_stacked {t : State} {cpu : CpuState} {ret : Addr} {brk : Bool} (hsp : t.cpu.sp = cpu.sp - 3#8)
    (hhigh : t.bus.peek (stackAddr cpu.sp) = some (hi8 ret))
    (hlow : t.bus.peek (stackAddr (cpu.sp - 1#8)) = some (lo8 ret))
    (hstatus : t.bus.peek (stackAddr (cpu.sp - 2#8)) = some (cpu.packP brk)) :
    exec .rti t = .next { t with
      cpu := { t.cpu with
        n := cpu.n, v := cpu.v, b := brk, d := cpu.d, i := cpu.i, z := cpu.z, c := cpu.c
        sp := cpu.sp, pc := ret, ir := 0x40#8, cycles := t.cpu.cycles + 6 } } := by
  have h1 : t.cpu.sp + 1#8 = cpu.sp - 2#8 := by rw [hsp]; bv_omega
  have h2 : t.cpu.sp + 2#8 = cpu.sp - 1#8 := by rw [hsp]; bv_omega
  have h3 : t.cpu.sp + 3#8 = cpu.sp := by rw [hsp]; exact BitVec.sub_add_cancel _ _
  have hreads := rti_of_reads_ok (s := t) (readsInOrder_of_peek (vs := [cpu.packP brk, lo8 ret, hi8 ret])
    (by simp only [rtiSlots, h1, h2, h3, List.map, hhigh, hlow, hstatus]))
  have hflags : Claims.flagsFrom t.cpu (cpu.packP brk) = _ := unpackP_packP t.cpu cpu brk
  rw [hreads, hflags, h3, word_hi_lo]

/-- Pushes of an entry on a RAM stack, and an RTI in a state that has them stored with SP three less: it takes them back. -/
theorem rti_after_entryPushes {cpu : CpuState} {b : Bus} (ret : Addr) (brk : Bool) (hm : Memory.wf b.mem = true)
    (hram : ∀ a ∈ Claims.entrySlots cpu, b.writable a) :
    ∃ b1, Claims.writesInOrder (Claims.entryPushes cpu ret brk) b = .ok () b1 ∧
      ∀ t : State, t.cpu.sp = cpu.sp - 3#8 → Claims.sameBytes b1 t.bus →
        ∃ u, exec .rti t = .next u ∧
          u.cpu = { t.cpu with
            n := cpu.n, v := cpu.v, b := brk, d := cpu.d, i := cpu.i, z := cpu.z, c := cpu.c
            sp := cpu.sp, pc := ret, ir := 0x40#8, cycles := t.cpu.cycles + 6 } ∧
          Claims.sameBytesBut (Claims.entrySlots cpu) b u.bus := by
  obtain ⟨b1, hpushes, hhigh, hlow, hstatus⟩ := entryPushes_of_writable ret brk hm hram
  refine ⟨b1, hpushes, fun t hsp hsame => ?_⟩
  have hrti := rti_of_stacked hsp ((hsame _).trans hhigh) ((hsame _).trans hlow) ((hsame _).trans hstatus)
  exact ⟨_, hrti, rfl, fun addr haddr => (hsame addr).trans (sameBytesBut_of_writesInOrder hpushes addr haddr)⟩

/-- Settles O50: the three bytes of the entry stay on the RAM stack through the vector reads, and RTI takes them back. -/
theorem rtiUndoesTheEntry : Obligations.RtiUndoesTheEntry := by
  intro s hwf hram
  have hm := (Bool.and_eq_true_iff.mp hwf).1
  constructor
  · intro pad t ht hnofault
    obtain ⟨b1, hpushes, hrti⟩ := rti_after_entryPushes (s.cpu.pc + 2#16) true hm hram
    obtain ⟨lo, hi, b2, hvector⟩ := vector_ok_of_not_raised (lo := 0xFFFE#16) (hi := 0xFFFF#16) (b := b1)
      fun f b' h => by
        rw [brk_of_vector_raised pad hpushes h] at ht
        cases ht
        cases hnofault
    rw [brk_of_vector_ok pad hpushes hvector] at ht
    cases ht
    exact hrti _ rfl (sameBytes_of_readsInOrder_ok hvector)
  · intro src t ht hnofault
    obtain ⟨b1, hpushes, hrti⟩ := rti_after_entryPushes s.cpu.pc false hm hram
    obtain ⟨lo, hi, b2, hvector⟩ := vector_ok_of_not_raised (lo := src.vector) (hi := src.vector + 1#16) (b := b1)
      fun f b' h => by
        rw [takeInterrupt_of_vector_raised hpushes h] at ht
        subst ht
        cases hnofault
    rw [takeInterrupt_of_vector_ok hpushes hvector] at ht
    subst ht
    exact hrti _ rfl (sameBytes_of_readsInOrder_ok hvector)

end Sys2Proof.Machine
end

section
/-! Decimal numbers under the decimal sequences (43_arithmetic.md section 1): the sequences of R192 and R193 on packed
digits are addition and subtraction in base 100. Each lemma speaks of the digits, where the corrections of the sequences are
the carries of the base. -/

namespace Sys2Proof.Machine

/-! ## Packed digits -/

/-- Two decimal digits as the number of their packed byte. -/
def packedNat (n : Nat) : Nat := n / 10 * 16 + n % 10

theorem packedNat_of_digits {n h l : Nat} (hl : l < 10) (hn : n = 10 * h + l) : packedNat n = h * 16 + l := by
  rw [packedNat]
  omega

theorem packedNat_mod (n : Nat) : packedNat n % 16 = n % 10 := by
  rw [packedNat]
  omega

theorem packedNat_div (n : Nat) : packedNat n / 16 = n / 10 := by
  rw [packedNat]
  omega

theorem packedNat_cast (n : Nat) : (packedNat n : Int) = (n : Int) / 10 * 16 + (n : Int) % 10 := by
  rw [packedNat]
  push_cast
  rfl

theorem packedNat_emod (n : Nat) : (packedNat n : Int) % 16 = (n : Int) % 10 := by
  exact_mod_cast packedNat_mod n

theorem packedNat_ediv (n : Nat) : (packedNat n : Int) / 16 = (n : Int) / 10 := by
  exact_mod_cast packedNat_div n

theorem bcd_toNat {n : Nat} (h : n < 100) : (Claims.bcd n).toNat = packedNat n := by
  rw [Claims.bcd, BitVec.toNat_ofNat]
  exact Nat.mod_eq_of_lt (by omega)

/-! ## The sequences on packed digits -/

/-- The low digit of the difference is negative where it borrows. -/
theorem lowBorrow_iff {x y c : Nat} : (x : Int) % 10 - (y : Int) % 10 + (c : Int) - 1 < 0 ↔ ¬ y % 10 + 1 ≤ x % 10 + c := by
  omega

section Digits
variable {x y c : Nat} (hx : x < 100) (hy : y < 100) (hc : c ≤ 1)
include hx hy hc

/-- The two corrections of R192 carry where the digits of the base do. -/
theorem highSum_packedNat : Claims.highSum (packedNat x) (packedNat y) c =
    packedNat ((x + y + c) % 100) + if 100 ≤ x + y + c then 256 else 0 := by
  simp only [Claims.highSum, Claims.lowSum, packedNat_mod, packedNat_div]
  rw [packedNat]
  by_cases hlow : 10 ≤ x % 10 + y % 10 + c
  · simp only [hlow, if_true]
    split <;> split <;> omega
  · simp only [hlow, if_false]
    split <;> split <;> omega

/-- The difference in base 100, digit by digit with the borrow of the low digit. -/
theorem packedNat_difference : packedNat ((x + 99 + c - y) % 100) =
    if y % 10 + 1 ≤ x % 10 + c then
      (if y / 10 ≤ x / 10 then x / 10 - y / 10 else x / 10 + 10 - y / 10) * 16 + (x % 10 + c - 1 - y % 10)
    else
      (if y / 10 + 1 ≤ x / 10 then x / 10 - 1 - y / 10 else x / 10 + 9 - y / 10) * 16 + (x % 10 + 9 + c - y % 10) := by
  split <;> split <;> exact packedNat_of_digits (by omega) (by omega)

/-- The two corrections of R193 on NMOS borrow where the digits of the base do. -/
theorem nmosDifference_packedNat : Claims.nmosDifference (packedNat x) (packedNat y) c % 256 =
    packedNat ((x + 99 + c - y) % 100) := by
  simp only [Claims.nmosDifference, Claims.lowDifference, packedNat_emod, packedNat_ediv, lowBorrow_iff]
  rw [packedNat_difference hx hy hc]
  by_cases hlow : y % 10 + 1 ≤ x % 10 + c
  · simp only [hlow, not_true, if_true, if_false]
    split <;> split <;> omega
  · simp only [hlow, not_false_iff, if_true, if_false]
    split <;> split <;> omega

/-- The corrections of R193 on CMOS do the same to the binary difference. -/
theorem cmosDifference_packedNat : Claims.cmosDifference (packedNat x) (packedNat y) c % 256 =
    packedNat ((x + 99 + c - y) % 100) := by
  simp only [Claims.cmosDifference, packedNat_emod, lowBorrow_iff]
  rw [packedNat_difference hx hy hc, packedNat_cast, packedNat_cast]
  by_cases hlow : y % 10 + 1 ≤ x % 10 + c
  · simp only [hlow, not_true, if_true, if_false]
    split <;> split <;> omega
  · simp only [hlow, not_false_iff, if_true, if_false]
    split <;> split <;> omega

end Digits

theorem bcd_of_toNat {r : Byte} {n : Nat} (h : r.toNat = packedNat (n % 100)) : r = Claims.bcd (n % 100) :=
  BitVec.eq_of_toNat_eq (h.trans (bcd_toNat (Nat.mod_lt _ (by decide))).symm)

theorem packedNat_lt {n : Nat} (h : n < 100) : packedNat n < 256 := by
  rw [packedNat]
  omega

/-- `AddDecimal` on packed digits, on both variants. -/
theorem addDecimal_bcd (v : Variant) {x y : Nat} (c : Bool) (hx : x < 100) (hy : y < 100) :
    (addDecimal v (Claims.bcd x) (Claims.bcd y) c).r = Claims.bcd ((x + y + c.toNat) % 100) ∧
      ((addDecimal v (Claims.bcd x) (Claims.bcd y) c).c = true ↔ 100 ≤ x + y + c.toNat) := by
  have hpacked : packedNat ((x + y + c.toNat) % 100) < 256 := packedNat_lt (Nat.mod_lt _ (by decide))
  obtain ⟨hr, hcarry, -⟩ := addDecimal_shared v (Claims.bcd x) (Claims.bcd y) c
  rw [bcd_toNat hx, bcd_toNat hy, highSum_packedNat hx hy (Bool.toNat_le c)] at hr hcarry
  refine ⟨bcd_of_toNat (hr.trans ?_), hcarry.trans ?_⟩ <;> split <;> omega

/-- The result of `SubDecimal` on packed digits, on both variants. -/
theorem subDecimal_bcd_r (v : Variant) {x y : Nat} (c : Bool) (hx : x < 100) (hy : y < 100) :
    (subDecimal v (Claims.bcd x) (Claims.bcd y) c).r = Claims.bcd ((x + 99 + c.toNat - y) % 100) := by
  refine bcd_of_toNat (Int.ofNat_inj.mp ?_)
  cases v with
  | nmos =>
    exact (subDecimal_nmos_r ..).trans
      (by rw [bcd_toNat hx, bcd_toNat hy]; exact nmosDifference_packedNat hx hy (Bool.toNat_le c))
  | cmos =>
    exact (subDecimal_cmos_r ..).trans
      (by rw [bcd_toNat hx, bcd_toNat hy]; exact cmosDifference_packedNat hx hy (Bool.toNat_le c))

/-- The carry of `SubDecimal` on packed digits: that of the binary difference, which borrows where the decimal one does. -/
theorem subDecimal_bcd_c (v : Variant) {x y : Nat} (c : Bool) (hx : x < 100) (hy : y < 100) :
    (subDecimal v (Claims.bcd x) (Claims.bcd y) c).c = true ↔ y + 1 ≤ x + c.toNat := by
  have hc : (subDecimal v (Claims.bcd x) (Claims.bcd y) c).c = (subBinary (Claims.bcd x) (Claims.bcd y) c).c := by
    cases v <;> rfl
  have hborrow := (subBinaryIsAddBinaryOfTheComplement (Claims.bcd x) (Claims.bcd y) c).2.1
  have hcarry := Bool.toNat_le c
  rw [hc, hborrow, bcd_toNat hx, bcd_toNat hy]
  simp only [packedNat]
  omega

/-- Settles O13: the digits of the sequences, as bytes. -/
theorem decimalModeAddsAndSubtractsDecimalNumbers : Obligations.DecimalModeAddsAndSubtractsDecimalNumbers := by
  intro v x y c hx hy
  obtain ⟨hsum, hcarry⟩ := addDecimal_bcd v c hx hy
  exact ⟨hsum, hcarry, subDecimal_bcd_r v c hx hy, subDecimal_bcd_c v c hx hy⟩

end Sys2Proof.Machine
end

section
/-! Words written out from the opcode maps (30_encoding.md sections 1 and 2), and the order of the operand bytes (R111,
R112). -/

namespace Sys2Proof.Machine

/-- Settles O1: the encoder and the decoder computed on each word, whatever follows it. -/
theorem sampleWordsDecodeAsTheMapsSay : Obligations.SampleWordsDecodeAsTheMapsSay :=
  ⟨⟨rfl, fun _ => rfl⟩, ⟨rfl, fun _ => rfl⟩, ⟨rfl, fun _ => rfl⟩, ⟨rfl, fun _ => rfl⟩, ⟨rfl, fun _ => rfl⟩,
    ⟨rfl, fun _ => rfl⟩, ⟨rfl, fun _ => rfl⟩, ⟨rfl, fun _ => rfl⟩, ⟨rfl, fun _ => rfl⟩, ⟨rfl, fun _ => rfl⟩,
    ⟨rfl, fun _ => rfl⟩⟩

/-- The operand bytes of a 16-bit operand are its bytes, low byte first. -/
theorem lowByteFirst {w : Addr} {op1 op2 : Byte} (h : w.toNat = op2.toNat * 256 + op1.toNat) :
    [lo8 w, hi8 w] = [op1, op2] := by
  rw [eq_word h, lo8_word, hi8_word]

/-- Settles O5: a mode's operand bytes are its byte, or the bytes of its word. -/
theorem operandsAreAssembledLowByteFirst : Obligations.OperandsAreAssembledLowByteFirst :=
  ⟨fun _ => ⟨rfl, rfl, rfl, rfl, rfl, rfl, rfl⟩, fun _ _ _ h =>
    ⟨lowByteFirst h, lowByteFirst h, lowByteFirst h, lowByteFirst h, lowByteFirst h⟩⟩

end Sys2Proof.Machine
end
